-- ==== Sys2Proof/Word.lean ====
section
/-! DEFINITION. The widths of the block: bytes, 16-bit values and 32-bit port words (00_scope.md R7: all values unsigned). -/

namespace Sys2Proof

/-- A byte of a frame or of a command word. -/
abbrev Byte := BitVec 8

/-- A 16-bit value: a register address, a register value, a CRC, a count of ticks. -/
abbrev Half := BitVec 16

/-- A 32-bit command word (30_encoding.md R75) or response word (R80). -/
abbrev Word := BitVec 32

end Sys2Proof
end

