-- ==== Sys2Proof/Config.lean ====
section
/-! DEFINITION. Implementation parameters (00_scope.md R6) and the one free value the spec leaves open. -/

namespace Sys2Proof

/-- The DEFAULT parameters of 00_scope.md R6, the ones a model takes as arguments: the capacity of `RXBUF` and three
reset values. They are fixed for a run (10_state.md R37), so a `State` carries them and no step changes them.
DESIGN CHOICE, log 1, safe: a statement over all states holds for every legal value of them. -/
structure Params where
  /-- `RXCAP`, the capacity of `RXBUF` in bytes. -/
  rxcap : Nat
  /-- The range 00_scope.md R6 gives for `RXCAP`. -/
  rxcap_legal : 8 ≤ rxcap ∧ rxcap ≤ 65535
  /-- `T_SETTLE_RESET`, in ticks. -/
  tSettleReset : Half
  /-- `T_RESP_RESET`, in ticks. -/
  tRespReset : Half
  /-- `RETRY_DELAY_RESET`, in ticks. -/
  retryDelayReset : Half
deriving DecidableEq, Repr

/-- The default value of every parameter (00_scope.md R6). -/
def Params.standard : Params where
  rxcap := 256
  rxcap_legal := by decide
  tSettleReset := 10
  tRespReset := 100
  retryDelayReset := 0

namespace Config

/-- `FUNCTION_CODE`, byte 1 of every request. -/
def functionCode : Byte := 3

/-- `REG_COUNT`, the register count of every request, 16 bits on the wire. -/
def regCount : Half := 1

/-- `RSP_MIN`: a response shorter than this is `TooShort`. -/
def rspMin : Nat := 5

/-- The only length of the data segment of a successful response (`RSP_OK_LEN` less the five bytes of header and CRC). -/
def dataLen : Nat := 2

/-- The byte count a successful response declares (41_frame_codec.md R121 step 4). -/
def byteCount : Byte := 2

/-- `CRC_POLY`, the reflected polynomial, used with right shifts. -/
def crcPoly : Half := 0xA001

/-- `CRC_INIT`, the initial accumulator value. -/
def crcInit : Half := 0xFFFF

/-- `RETRY_COUNT_RESET`: no retry. -/
def retryCountReset : Byte := 0

/-- The two frame buffers (20_memory.md R50). -/
inductive Buffer where
  | tx | rx
deriving DecidableEq, Repr

/-- FREE VALUE (93_implementation_defined.md U11, U12, "any value inside the block"): what a byte of a buffer that holds
no value is when a step of the block reads it all the same. It has no body, so nothing can be proved of it; no reachable
state reads one (log 7). -/
opaque unspecifiedByte : Buffer → Nat → Byte

end Config

end Sys2Proof
end

