-- ==== Sys2Proof/Machine/State.lean ====
section
/-! DEFINITION. The whole state: the block (10_state.md R20), the transport's queues, the response port, the event
history (00_scope.md R10) and what the other agents do next; the reset state (10_state.md R36); why a step may stop. -/

namespace Sys2Proof.Machine

/-- `SEQ`, seven states (10_state.md R28); the value 7 does not exist (93_implementation_defined.md U15). -/
inductive Seq where
  | idle | txen | write | settle | rxwait | eval | rdelay
deriving DecidableEq, Repr

/-- `CMDOP`: which command is running (10_state.md R34). -/
inductive CmdOp where
  | xact | read
deriving DecidableEq, Repr

/-- The events of the history (00_scope.md R10). -/
inductive Event where
  /-- `Cmd(w)`: command word accepted. -/
  | cmd (w : Word)
  /-- `Resp(w)`: response word emitted. -/
  | resp (w : Word)
  /-- `Dir(b)`: direction output driven to `b`. -/
  | dir (b : Bool)
  /-- `Tx(s)`: `LineWrite(s)`. -/
  | tx (s : List Byte)
  /-- `RxRead(s)`: `LineReadAvailable()` returned `s`. -/
  | rxRead (s : List Byte)
  /-- `Arrive(b)`: the LINE agent appended `b` to `LINE_RX`. -/
  | arrive (b : Byte)
  /-- `Tick`. -/
  | tick
  /-- `Reset`. -/
  | reset
deriving DecidableEq, Repr

/-- Which agent takes the next step (00_scope.md R9). -/
inductive Turn where
  /-- SEQ: accept the command on the port, or take one sequencer transition. -/
  | block
  /-- TIME: the `Tick` event. -/
  | tick
  /-- LINE: these bytes arrive, one `Arrive` event each; one byte is the step of 20_memory.md R59, more are that many of
  its steps in a row (DESIGN CHOICE, log 4, safe). -/
  | line (bytes : List Byte)
  /-- The pin `rst`: the `Reset` event. -/
  | reset
deriving DecidableEq, Repr

/-- A frame buffer: the bytes that hold a value, addresses strictly rising. An address not listed holds no value
(10_state.md R31, R36). -/
abbrev Memory := List Host.Cell

/-- The state of the block, its environment and its history. -/
structure State where
  /-- `T_SETTLE`, post-write settle in ticks. -/
  tSettle : Half
  /-- `T_RESP`, response wait in ticks. -/
  tResp : Half
  /-- `RETRY_COUNT`. -/
  retryCount : Byte
  /-- `RETRY_DELAY`, in ticks. -/
  retryDelay : Half
  /-- `SLAVE_ID`. -/
  slaveId : Byte
  /-- `REG_ADDR`. -/
  regAddr : Half
  /-- `VALUE`. -/
  value : Half
  /-- `ERR`. -/
  err : Byte
  /-- `RXLEN`. -/
  rxlen : Half
  /-- `ATTEMPTS`. -/
  attempts : Half
  /-- `CRCACC`. -/
  crcacc : Half
  /-- Flag `OK`. -/
  ok : Bool
  /-- Flag `RXOVF`. -/
  rxovf : Bool
  /-- Flag `TXVALID`. -/
  txvalid : Bool
  /-- `TXBUF[0..7]`. -/
  txbuf : Memory
  /-- `RXBUF[0..RXCAP-1]`. -/
  rxbuf : Memory
  /-- `SEQ`, where an ISA has a program counter. -/
  seq : Seq
  /-- `TIMER`. -/
  timer : Half
  /-- `RETRY_LEFT`. -/
  retryLeft : Byte
  /-- `CMDOP`. -/
  cmdop : CmdOp
  /-- The pin `de`: true is transmit. -/
  de : Bool
  /-- `LINE_TX`, every sequence handed to the transport (10_state.md R32). -/
  lineTx : List (List Byte)
  /-- `LINE_RX`, the bytes that arrived and were not taken, oldest first (10_state.md R33). -/
  lineRx : List Byte
  /-- The response port during the step just taken: `rsp_word` when `rsp_valid = 1` (30_encoding.md R80). -/
  rsp : Option Word
  /-- The event history, oldest first (00_scope.md R10). -/
  history : List Event
  /-- The parameters of this block (00_scope.md R6, log 1). -/
  params : Params
  /-- The words HOST still presents, the first on `cmd_word` with `cmd_valid = 1` (log 3). -/
  hostCmds : List Word
  /-- Whose turn it is, first the next (log 2). -/
  schedule : List Turn
deriving DecidableEq, Repr

/-- The state after power-up, which is a `Reset` (70_reset_and_hazards.md R235), of a block with parameters `p`: the
table of 10_state.md R36. The transport's queues start empty (DESIGN CHOICE, log 10, unsafe: R36 gives them no value). -/
def State.powerUp (p : Params) : State where
  tSettle := p.tSettleReset
  tResp := p.tRespReset
  retryCount := Config.retryCountReset
  retryDelay := p.retryDelayReset
  slaveId := 0
  regAddr := 0
  value := 0
  err := 0
  rxlen := 0
  attempts := 0
  crcacc := Config.crcInit
  ok := false
  rxovf := false
  txvalid := false
  txbuf := []
  rxbuf := []
  seq := .idle
  timer := 0
  retryLeft := 0
  cmdop := .xact
  de := false
  lineTx := []
  lineRx := []
  rsp := none
  history := [.reset]
  params := p
  hostCmds := []
  schedule := []

/-- The machine right after reset, with the default parameters. -/
def State.reset : State := State.powerUp Params.standard

/-- No fault stops the block: "The block has no fault state that stops it, no sticky fault bit and no lock-up"
(60_exceptions.md R215). So nothing raises one and the type is empty, which is safe: every step answers a next state, and
where the rules enable no step the state stays as it is (log 15). -/
inductive Fault where
deriving DecidableEq, Repr

/-- Why an instruction is refused. -/
inductive Refusal where
  /-- Raised by an arm of `exec` that has no meaning yet; no arm is left without one. Safe. -/
  | notModelled (mnemonic : String)
deriving DecidableEq, Repr

/-- The outcome of a step of this machine. -/
abbrev Result := Host.Outcome State Fault Refusal

end Sys2Proof.Machine
end

