-- ==== Sys2Proof/Machine/Bits.lean ====
section
/-! DEFINITION. Bit fields and byte order: the halves of a 16-bit value (20_memory.md R51) and the three fields of a
command word (30_encoding.md R75, R78). -/

namespace Sys2Proof.Machine

/-- `f[7:0]`. -/
def lo (f : Half) : Byte := f.extractLsb' 0 8

/-- `f[15:8]`. -/
def hi (f : Half) : Byte := f.extractLsb' 8 8

/-- `{h, l}`: the 16-bit value whose high byte is `h` (00_scope.md R7). -/
def join (h l : Byte) : Half := h ++ l

/-- `op = w[31:24]`. -/
def opField (w : Word) : Byte := w.extractLsb' 24 8

/-- `a = w[23:16]`. -/
def aField (w : Word) : Byte := w.extractLsb' 16 8

/-- `imm = w[15:0]`. -/
def immField (w : Word) : Half := w.extractLsb' 0 16

/-- The command word `{op, a, imm}`. -/
def mkWord (op a : Byte) (imm : Half) : Word := op ++ a ++ imm

/-- `zext_16` of a byte: a register narrower than 16 bits reads zero-extended (20_memory.md R62). -/
def zext16 (b : Byte) : Half := b.setWidth 16

/-- The byte of a number whose bits `8 k + 7` down to `8 k` it is. -/
def byteOf (w k : Nat) : Byte := BitVec.ofNat 8 (w >>> (8 * k))

end Sys2Proof.Machine
end

