-- ==== Sys2Proof/Machine/Crc16.lean ====
section
/-! DEFINITION. The CRC-16/MODBUS functions (40_crc16.md R100 to R104). -/

namespace Sys2Proof.Machine

/-- One of the eight rounds of 40_crc16.md R101: bit 0 is tested before the logical right shift. -/
def crcRound (c : Half) : Half :=
  if c.getLsbD 0 then (c >>> 1) ^^^ Config.crcPoly else c >>> 1

/-- `n` rounds. -/
def crcRounds : Nat → Half → Half
  | 0, c => c
  | n + 1, c => crcRounds n (crcRound c)

/-- `crc_step(c, b)`: the byte enters the low 8 bits, then eight rounds (40_crc16.md R101). -/
def crcStep (c : Half) (b : Byte) : Half := crcRounds 8 (c ^^^ zext16 b)

/-- The accumulator after the bytes of `s`, in sequence order, from `c`. -/
def crcFrom (c : Half) (s : List Byte) : Half := s.foldl crcStep c

/-- `crc16(s)` (40_crc16.md R102); no final XOR and no swap (R103). -/
def crc16 (s : List Byte) : Half := crcFrom Config.crcInit s

/-- The two CRC bytes as they are appended to a frame: low byte first (20_memory.md R51). -/
def crcBytes (c : Half) : List Byte := [lo c, hi c]

/-- `append(s)` of 40_crc16.md R104: the sequence followed by its CRC. -/
def crcAppend (s : List Byte) : List Byte := s ++ crcBytes (crc16 s)

/-- The check of 41_frame_codec.md R121 step 2: the last two bytes are the CRC of the bytes before them. -/
def crcMatches (s : List Byte) : Bool :=
  s.drop (s.length - 2) == crcBytes (crc16 (s.take (s.length - 2)))

end Sys2Proof.Machine
end

