-- ==== Sys2Proof/Machine/Frame.lean ====
section
/-! DEFINITION. The frame encoder and decoder as pure functions (41_frame_codec.md R116, R121). -/

namespace Sys2Proof.Machine

/-- Bytes 0 to 5 of a request (30_encoding.md R83). -/
def requestHead (sid : Byte) (addr : Half) : List Byte :=
  [sid, Config.functionCode, hi addr, lo addr, hi Config.regCount, lo Config.regCount]

/-- `encode(sid, addr)`: the 8-byte request (41_frame_codec.md R116). -/
def encodeRequest (sid : Byte) (addr : Half) : List Byte := crcAppend (requestHead sid addr)

/-- Bytes 0 to 4 of a successful response (30_encoding.md R84). -/
def responseHead (sid fc : Byte) (v : Half) : List Byte := [sid, fc, Config.byteCount, hi v, lo v]

/-- The 7-byte response that carries `v` (30_encoding.md R84). -/
def encodeResponse (sid fc : Byte) (v : Half) : List Byte := crcAppend (responseHead sid fc v)

/-- `DecodeError` (60_exceptions.md R205). -/
inductive DecodeError where
  | tooShort | badCrc | unexpectedLength
deriving DecidableEq, Repr

/-- `decode(s)`: the checks of 41_frame_codec.md R121 in their order; the first that fails decides. -/
def decodeResponse (s : List Byte) : Except DecodeError Half :=
  if s.length < Config.rspMin then .error .tooShort
  else if !crcMatches s then .error .badCrc
  else if s.length - 5 ≠ Config.dataLen then .error .unexpectedLength
  else if s.getD 2 0 ≠ Config.byteCount then .error .unexpectedLength
  else .ok (join (s.getD 3 0) (s.getD 4 0))

end Sys2Proof.Machine
end

