-- ==== Sys2Proof/Machine/Status.lean ====
section
/-! DEFINITION. The error taxonomy, the status bytes and the response word (60_exceptions.md R205, 30_encoding.md R80). -/

namespace Sys2Proof.Machine

/-- `ReadError` (60_exceptions.md R205). -/
inductive ReadError where
  | noResponse
  | malformed (d : DecodeError)
deriving DecidableEq, Repr

/-- The eleven statuses of 60_exceptions.md R205. -/
inductive Status where
  | ok
  | decode (d : DecodeError)
  | read (e : ReadError)
  | illegalCommand
  | noFrame
  | noData
deriving DecidableEq, Repr

/-- The codes of the three `DecodeError`s. -/
def DecodeError.code : DecodeError → Byte
  | .tooShort => 0x01
  | .badCrc => 0x02
  | .unexpectedLength => 0x03

/-- `code(NoResponse) = 0x10` and `code(Malformed(d)) = 0x10 | code(d)`. -/
def ReadError.code : ReadError → Byte
  | .noResponse => 0x10
  | .malformed d => 0x10 ||| d.code

/-- The status byte `st` of 60_exceptions.md R205. -/
def Status.code : Status → Byte
  | .ok => 0x00
  | .decode d => d.code
  | .read e => e.code
  | .illegalCommand => 0xE0
  | .noFrame => 0xE1
  | .noData => 0xE2

/-- The `ERR` column of 60_exceptions.md R205 for the errors: does this error write `ERR`? -/
def Status.writesErr : Status → Bool
  | .decode _ | .read _ | .noFrame => true
  | .ok | .illegalCommand | .noData => false

/-- The response word `{st, 0x00, d}` (30_encoding.md R80). -/
def responseWord (st : Status) (d : Half) : Word := mkWord st.code 0 d

/-- What one attempt of a READ came to, from the bytes it received (43_register_reader.md R159): an empty reception is
`NoResponse` and the decoder is not run (60_exceptions.md R212 item 4). -/
def judge (s : List Byte) : Except ReadError Half :=
  if s.length = 0 then .error .noResponse
  else
    match decodeResponse s with
    | .ok v => .ok v
    | .error d => .error (.malformed d)

end Sys2Proof.Machine
end

