-- ==== Sys2Proof/Machine/Ops.lean ====
section
/-! DEFINITION. The named operations of 00_scope.md R8 over the state: buffers, events, the response port, error entry,
the transport primitives, the asynchronous events. -/

namespace Sys2Proof.Machine

/-! ### Buffers as canonical lists of cells -/

/-- The byte at an address, or none where the address holds no value. -/
def Memory.find : Memory → Nat → Option Byte
  | [], _ => none
  | (k, b) :: m, a => if k = a then some b else Memory.find m a

/-- Write one byte, keeping the addresses strictly rising. -/
def Memory.write : Memory → Nat → Byte → Memory
  | [], a, b => [(a, b)]
  | (k, c) :: m, a, b =>
    if a < k then (a, b) :: (k, c) :: m
    else if a = k then (a, b) :: m
    else (k, c) :: Memory.write m a b

/-- `MemWrite(buf, i, n, v)` (00_scope.md R8): the bytes of `v` at `a` and up, lowest index first. -/
def Memory.writeBytes (m : Memory) (a : Nat) : List Byte → Memory
  | [] => m
  | b :: bs => Memory.writeBytes (m.write a b) (a + 1) bs

/-- The canonical form: addresses strictly rising. No entry can equal what an unlisted address reads as, since that
address holds no value. -/
def Memory.wf : Memory → Bool
  | [] => true
  | [_] => true
  | (a, _) :: (b, c) :: m => decide (a < b) && Memory.wf ((b, c) :: m)

/-- The byte a step of the block reads: where the address holds no value, a free one (log 7). -/
def Memory.readByte (buf : Config.Buffer) (m : Memory) (a : Nat) : Byte :=
  (m.find a).getD (Config.unspecifiedByte buf a)

/-- `MemRead(buf, i, n)` (00_scope.md R8): `n` bytes from `a`, lowest index first. -/
def Memory.readBytes (buf : Config.Buffer) (m : Memory) (a n : Nat) : List Byte :=
  (List.range n).map (fun k => m.readByte buf (a + k))

namespace State

/-- `TXBUF[i]`. -/
def txByte (s : State) (i : Nat) : Byte := s.txbuf.readByte .tx i

/-- `RXBUF[i]`. -/
def rxByte (s : State) (i : Nat) : Byte := s.rxbuf.readByte .rx i

/-- `MemRead(TXBUF, 0, 8)`, the request frame. -/
def request (s : State) : List Byte := s.txbuf.readBytes .tx 0 8

/-- `MemRead(RXBUF, 0, RXLEN)`, the bytes of the last reception. -/
def reception (s : State) : List Byte := s.rxbuf.readBytes .rx 0 s.rxlen.toNat

/-! ### Pins that are not stored (10_state.md R27) -/

/-- `cmd_ready` is 1 exactly when `SEQ = IDLE`. -/
def cmdReady (s : State) : Bool := s.seq == .idle

/-- `busy` is 1 exactly when `SEQ != IDLE`. -/
def busy (s : State) : Bool := s.seq != .idle

/-- `cmd_valid` and `cmd_word`: the word the host presents. -/
def cmdWord (s : State) : Option Word := s.hostCmds.head?

/-- `rsp_valid`. -/
def rspValid (s : State) : Bool := s.rsp.isSome

/-! ### Events, responses, errors -/

/-- Record an event (00_scope.md R10). -/
def emit (e : Event) (s : State) : State := { s with history := s.history ++ [e] }

/-- `Respond(st, d)` (30_encoding.md R80). -/
def respond (st : Status) (d : Half) (s : State) : State :=
  { s with rsp := some (responseWord st d), history := s.history ++ [.resp (responseWord st d)] }

/-- Error entry, the block's only exception (60_exceptions.md R213): `ERR` where R205 says so, the response word with
`data = 0`, `SEQ <- IDLE`. It saves nothing else and goes nowhere; `de` is already 0 where an error can arise (log 13).
There is no return from it (R214): the block is in `IDLE` and takes the next command. -/
def raise (st : Status) (s : State) : State :=
  { s with err := if st.writesErr then st.code else s.err, seq := .idle }.respond st 0

/-- The successful end of XACT, DEC and READ: `ERR <- 0x00`, `Respond(OK, d)`, `SEQ <- IDLE`. -/
def complete (d : Half) (s : State) : State := { s with err := Status.ok.code, seq := .idle }.respond .ok d

/-- The successful end of DEC and READ with a value: `VALUE <- v`, `OK <- 1` and completion. -/
def deliver (v : Half) (s : State) : State := { s with value := v, ok := true }.complete v

/-! ### The transport primitives (20_memory.md R56 to R60) -/

/-- `SetDirection(b)` (20_memory.md R58). -/
def setDirection (b : Bool) (s : State) : State := { s with de := b, history := s.history ++ [.dir b] }

/-- `LineWrite(f)` (20_memory.md R56). -/
def lineWrite (f : List Byte) (s : State) : State :=
  { s with lineTx := s.lineTx ++ [f], history := s.history ++ [.tx f] }

/-- `LineReadAvailable()` (20_memory.md R57) and the storing of what it returned (R60): at most `RXCAP` bytes are kept,
the bytes of `RXBUF` at `RXLEN` and above hold no value (10_state.md R31, log 8). -/
def receive (s : State) : State :=
  let n := min s.lineRx.length s.params.rxcap
  { s with
    lineRx := []
    rxbuf := Memory.writeBytes [] 0 (s.lineRx.take n)
    rxlen := BitVec.ofNat 16 n
    rxovf := decide (s.params.rxcap < s.lineRx.length)
    history := s.history ++ [.rxRead s.lineRx] }

/-- `MemWrite(TXBUF, 0, 8, encode(sid, addr))`. -/
def storeRequest (sid : Byte) (addr : Half) (s : State) : State :=
  { s with txbuf := s.txbuf.writeBytes 0 (encodeRequest sid addr) }

/-! ### The asynchronous events (60_exceptions.md R211) -/

/-- The LINE agent appends bytes to `LINE_RX`, one `Arrive` event each (20_memory.md R59). -/
def arrive (bytes : List Byte) (s : State) : State :=
  { s with lineRx := s.lineRx ++ bytes, history := s.history ++ bytes.map .arrive }

/-- Is `SEQ` one of the three waiting states (10_state.md R29)? -/
def waiting (s : State) : Bool := s.seq == .settle || s.seq == .rxwait || s.seq == .rdelay

/-- The `Tick` event (10_state.md R29): `TIMER` never goes below 0. -/
def tickEvent (s : State) : State :=
  { s with
    timer := if s.waiting && s.timer != 0 then s.timer - 1 else s.timer
    history := s.history ++ [.tick] }

/-- The `Reset` event (70_reset_and_hazards.md R235 to R237): every element of the block at its reset value, a running
command cancelled without a response; the transport's queues, the other agents and the parameters stay. -/
def resetEvent (s : State) : State :=
  { powerUp s.params with
    lineTx := s.lineTx
    lineRx := s.lineRx
    history := s.history ++ [.reset]
    hostCmds := s.hostCmds
    schedule := s.schedule }

end State

end Sys2Proof.Machine
end

