-- ==== Sys2Proof/Machine/Flags.lean ====
section
/-! DEFINITION. The three flags (10_state.md R23). -/

namespace Sys2Proof.Machine

/-- The FLAGS register `{0b0000000000000, TXVALID, RXOVF, OK}`. -/
def flagsValue (txvalid rxovf ok : Bool) : Half :=
  0#13 ++ BitVec.ofBool txvalid ++ BitVec.ofBool rxovf ++ BitVec.ofBool ok

namespace State

/-- FLAGS as a GET reads it. -/
def flags (s : State) : Half := flagsValue s.txvalid s.rxovf s.ok

/-- `OK <- 0`, at the acceptance of DEC and READ. -/
def clearOk (s : State) : State := { s with ok := false }

/-- `TXVALID <- 1`, by ENC and READ. -/
def setTxvalid (s : State) : State := { s with txvalid := true }

end State

end Sys2Proof.Machine
end

