-- ==== Sys2Proof/Machine/Codec.lean ====
section
/-! DEFINITION. The codec commands ENC and DEC (41_frame_codec.md R118, R123). -/

namespace Sys2Proof.Machine

/-- ENC (R118): the request into `TXBUF`; the response carries `{f[7], f[6]}`, the CRC. -/
def execEnc (a : Byte) (imm : Half) (s : State) : Result :=
  let f := encodeRequest a imm
  .next (({ s with slaveId := a, regAddr := imm }.storeRequest a imm).setTxvalid.respond .ok
    (join (f.getD 7 0) (f.getD 6 0)))

/-- DEC (R123): decode `RXBUF[0..RXLEN-1]`; `VALUE` is written on success only. -/
def execDec (s : State) : Result :=
  match decodeResponse s.reception with
  | .ok v => .next (s.clearOk.deliver v)
  | .error d => .next (s.clearOk.raise (.decode d))

end Sys2Proof.Machine
end

