-- ==== Sys2Proof/Machine/Crc.lean ====
section
/-! DEFINITION. The CRC commands CRCINIT and CRCBYTE (40_crc16.md R105, R106). -/

namespace Sys2Proof.Machine

/-- CRCINIT (R105). -/
def execCrcinit (s : State) : Result :=
  .next ({ s with crcacc := Config.crcInit }.respond .ok Config.crcInit)

/-- CRCBYTE (R106). -/
def execCrcbyte (a : Byte) (s : State) : Result :=
  .next ({ s with crcacc := crcStep s.crcacc a }.respond .ok (crcStep s.crcacc a))

end Sys2Proof.Machine
end

