-- ==== Sys2Proof/Machine/Reader.lean ====
section
/-! DEFINITION. READ and its own steps `Eval` and `Retry` (43_register_reader.md R155 to R161). -/

namespace Sys2Proof.Machine

/-- The accepting step of READ (R156). -/
def execRead (a : Byte) (imm : Half) (s : State) : Result :=
  .next
    { ({ s with slaveId := a, regAddr := imm }.storeRequest a imm).setTxvalid.clearOk with
      attempts := 0
      retryLeft := s.retryCount
      cmdop := .read
      seq := .txen }

/-- Step `Eval` (R159): success ends the READ; a failure ends it when no attempt is left and else starts the delay. -/
def stepEval (s : State) : State :=
  match judge s.reception with
  | .ok v => s.deliver v
  | .error e =>
    if s.retryLeft = 0#8 then s.raise (.read e)
    else { s with retryLeft := s.retryLeft - 1, timer := s.retryDelay, seq := .rdelay }

/-- Step `Retry` (R160): the request constructed afresh, then the next attempt. -/
def stepRetry (s : State) : State := { s.storeRequest s.slaveId s.regAddr with seq := .txen }

end Sys2Proof.Machine
end

