-- ==== Sys2Proof/Machine/RegMap.lean ====
section
/-! DEFINITION. The register index map (20_memory.md R62) and the checks on SET and GET (30_encoding.md R79). -/

namespace Sys2Proof.Machine

/-- The fourteen names of the register index map (20_memory.md R62). -/
inductive Reg where
  | tSettle | tResp | retryCount | retryDelay
  | flags | crcacc | value | err | rxlen | attempts | slaveId | regAddr
  | txbuf | rxbuf
deriving DecidableEq, Repr

/-- The index of a register (20_memory.md R62). -/
def Reg.index : Reg → Byte
  | .tSettle => 0x00
  | .tResp => 0x01
  | .retryCount => 0x02
  | .retryDelay => 0x03
  | .flags => 0x10
  | .crcacc => 0x11
  | .value => 0x12
  | .err => 0x13
  | .rxlen => 0x14
  | .attempts => 0x15
  | .slaveId => 0x16
  | .regAddr => 0x17
  | .txbuf => 0x20
  | .rxbuf => 0x30

/-- Every register of the map, in the order of the table. -/
def Reg.all : List Reg :=
  [.tSettle, .tResp, .retryCount, .retryDelay, .flags, .crcacc, .value, .err, .rxlen, .attempts, .slaveId, .regAddr,
   .txbuf, .rxbuf]

/-- The register an index names, if any; every other index is reserved (20_memory.md R62). -/
def Reg.ofIndex (a : Byte) : Option Reg := Reg.all.find? (fun r => r.index == a)

/-- The access column of 20_memory.md R62: the four configuration registers alone are writable. -/
def Reg.writable : Reg → Bool
  | .tSettle | .tResp | .retryCount | .retryDelay => true
  | .flags | .crcacc | .value | .err | .rxlen | .attempts | .slaveId | .regAddr | .txbuf | .rxbuf => false

/-- The largest value a SET may write (10_state.md R24, legal values). -/
def Reg.maxValue : Reg → Nat
  | .retryCount => 255
  | _ => 65535

/-- A legal SET (30_encoding.md R79): a configuration register, and `imm <= 255` for `RETRY_COUNT`. -/
def setLegal (a : Byte) (imm : Half) : Bool :=
  match Reg.ofIndex a with
  | none => false
  | some r => r.writable && Nat.ble imm.toNat r.maxValue

/-- A legal GET (30_encoding.md R79) on a block whose `RXCAP` is `cap`. -/
def getLegal (cap : Nat) (a : Byte) (imm : Half) : Bool :=
  match Reg.ofIndex a with
  | none => false
  | some .txbuf => decide (imm.toNat ≤ 7)
  | some .rxbuf => decide (imm.toNat < cap)
  | some _ => imm == 0

end Sys2Proof.Machine
end

