-- ==== Sys2Proof/Machine/Operands.lean ====
section
/-! DEFINITION. The operand forms: reading every index of the register map (44_system_commands.md R178) and writing the
four configuration registers (R177). -/

namespace Sys2Proof.Machine

/-- What a GET of a register finds (44_system_commands.md R178): its value zero-extended, or `NoData` for a buffer byte
that holds no value. -/
def getData (r : Reg) (imm : Half) (s : State) : Except Status Half :=
  match r with
  | .tSettle => .ok s.tSettle
  | .tResp => .ok s.tResp
  | .retryCount => .ok (zext16 s.retryCount)
  | .retryDelay => .ok s.retryDelay
  | .flags => .ok s.flags
  | .crcacc => .ok s.crcacc
  | .value => .ok s.value
  | .err => .ok (zext16 s.err)
  | .rxlen => .ok s.rxlen
  | .attempts => .ok s.attempts
  | .slaveId => .ok (zext16 s.slaveId)
  | .regAddr => .ok s.regAddr
  | .txbuf => if s.txvalid then .ok (zext16 (s.txByte imm.toNat)) else .error .noData
  | .rxbuf => if imm.toNat < s.rxlen.toNat then .ok (zext16 (s.rxByte imm.toNat)) else .error .noData

/-- A SET writes the whole register with `imm` (10_state.md R25); a read-only register is left alone. -/
def setData (r : Reg) (imm : Half) (s : State) : State :=
  match r with
  | .tSettle => { s with tSettle := imm }
  | .tResp => { s with tResp := imm }
  | .retryCount => { s with retryCount := lo imm }
  | .retryDelay => { s with retryDelay := imm }
  | .flags | .crcacc | .value | .err | .rxlen | .attempts | .slaveId | .regAddr | .txbuf | .rxbuf => s

end Sys2Proof.Machine
end

