-- ==== Sys2Proof/Machine/System.lean ====
section
/-! DEFINITION. The system commands NOP, SET and GET (44_system_commands.md R175 to R178). -/

namespace Sys2Proof.Machine

/-- NOP (R176): `Respond(OK, 0)`. -/
def execNop (s : State) : Result := .next (s.respond .ok 0)

/-- SET (R177): an illegal index or value is `IllegalCommand` and changes nothing, else the register is written. -/
def execSet (a : Byte) (imm : Half) (s : State) : Result :=
  match Reg.ofIndex a with
  | none => .next (s.raise .illegalCommand)
  | some r =>
    if setLegal a imm then .next ((setData r imm s).respond .ok imm) else .next (s.raise .illegalCommand)

/-- GET (R178): an illegal index or `imm` is `IllegalCommand`, a buffer byte that holds no value `NoData`. No state is
written either way. -/
def execGet (a : Byte) (imm : Half) (s : State) : Result :=
  match Reg.ofIndex a with
  | none => .next (s.raise .illegalCommand)
  | some r =>
    if getLegal s.params.rxcap a imm then
      match getData r imm s with
      | .ok d => .next (s.respond .ok d)
      | .error e => .next (s.raise e)
    else .next (s.raise .illegalCommand)

/-- A command word that is illegal (30_encoding.md R86): accepted, answered in the same step, no state changed. -/
def answerIllegal (s : State) : State := s.raise .illegalCommand

end Sys2Proof.Machine
end

