-- ==== Sys2Proof/Machine/Transceiver.lean ====
section
/-! DEFINITION. XACT and the steps of a transaction (42_transceiver.md R135 to R140). -/

namespace Sys2Proof.Machine

/-- The accepting step of XACT (R135): `NoFrame` when no request has been encoded, else the transaction starts. -/
def execXact (s : State) : Result :=
  if s.txvalid then .next { s with cmdop := .xact, seq := .txen } else .next (s.raise .noFrame)

/-- Step `Dir(1)` (R136): transmit-enable; an attempt of a READ is counted. -/
def stepDirOn (s : State) : State :=
  { s with
    attempts := if s.cmdop = CmdOp.read then s.attempts + 1 else s.attempts
    seq := .write }.setDirection true

/-- Step `Tx` (R137): the request in one write, then the settle wait. -/
def stepTx (s : State) : State :=
  { s with timer := s.tSettle, seq := .settle }.lineWrite s.request

/-- Step `Dir(0)` (R139): receive, then the response wait. -/
def stepDirOff (s : State) : State :=
  { s with timer := s.tResp, seq := .rxwait }.setDirection false

/-- Step `RxRead` (R140): take what arrived; an XACT is complete, a READ goes on to judge it. -/
def stepRxRead (s : State) : State :=
  match s.cmdop with
  | .xact => s.receive.complete s.receive.rxlen
  | .read => { s.receive with seq := .eval }

end Sys2Proof.Machine
end

