-- ==== Sys2Proof/Machine/Wire.lean ====
section
/-! DEFINITION. The two wire frames of the opcode table as packets on the line (30_encoding.md R83, R84). What a frame
does to the block is what its bytes do: the LINE agent appends them to `LINE_RX` (20_memory.md R59), in any state of the
block (42_transceiver.md R145). That is the whole of it (DESIGN CHOICE, log 5, safe); the block's own sending of a
request is the step `Tx`, and the decoding of a response is DEC and `Eval`. -/

namespace Sys2Proof.Machine

/-- REQ03 (R83): the eight bytes of a request arrive, as an echo does (70_reset_and_hazards.md R246). -/
def execReq03 (sid : Byte) (addr : Half) (s : State) : Result := .next (s.arrive (encodeRequest sid addr))

/-- RSP03 (R84): the seven bytes of a response arrive. -/
def execRsp03 (sid fc : Byte) (v : Half) (s : State) : Result := .next (s.arrive (encodeResponse sid fc v))

end Sys2Proof.Machine
end

