-- ==== Sys2Proof/Syntax.lean ====
section
/-! DEFINITION. The instructions: the nine host commands and the two wire frames of spec/opcode_table.json. -/

namespace Sys2Proof

/-- One constructor per row of the opcode table (00_scope.md R5, 30_encoding.md R77, R83, R84). The fields are the
operands as the encoding gives them (30_encoding.md R78); a wire frame's CRC is no free field, it is determined by the
other bytes. -/
inductive Instr where
  /-- No operation (44_system_commands.md R176). -/
  | nop
  /-- Write the configuration register with index `a` (44_system_commands.md R177). -/
  | set (a : Byte) (imm : Half)
  /-- Read the register with index `a`, or byte `imm` of a buffer window (44_system_commands.md R178). -/
  | get (a : Byte) (imm : Half)
  /-- Start a CRC (40_crc16.md R105). -/
  | crcinit
  /-- Feed one byte to the CRC (40_crc16.md R106). -/
  | crcbyte (a : Byte)
  /-- Encode a request into `TXBUF` (41_frame_codec.md R118). -/
  | enc (a : Byte) (imm : Half)
  /-- One transaction (42_transceiver.md R135). -/
  | xact
  /-- Decode `RXBUF` (41_frame_codec.md R123). -/
  | dec
  /-- Read one holding register with retry (43_register_reader.md R155). -/
  | read (a : Byte) (imm : Half)
  /-- The request frame on the wire (30_encoding.md R83). -/
  | req03 (sid : Byte) (addr : Half)
  /-- The successful response frame on the wire (30_encoding.md R84). -/
  | rsp03 (sid fc : Byte) (v : Half)
deriving DecidableEq, Repr

/-- The nine commands of 30_encoding.md R77. -/
inductive Opcode where
  | nop | set | get | crcinit | crcbyte | enc | xact | dec | read
deriving DecidableEq, Repr

/-- The four formats of 30_encoding.md R75, by which fields must be zero. -/
inductive Format where
  | n | b | r | a
deriving DecidableEq, Repr

/-- What the machine is given to decode: one whole command word on the command port (30_encoding.md R75), or the bytes
of a frame on the line in transmission order (30_encoding.md R83, R84). -/
inductive Packet where
  | word (w : Word)
  | frame (bytes : List Byte)
deriving DecidableEq, Repr

end Sys2Proof
end

