-- ==== Sys2Proof/Machine/Dispatch.lean ====
section
/-! DEFINITION. The meaning of every row of the opcode table: for a command, its accepting step. -/

namespace Sys2Proof.Machine

def exec (i : Instr) (s : State) : Host.Outcome State Fault Refusal :=
  match i with
  -- 44_system_commands.md
  | .nop => Sys2Proof.Machine.execNop s
  | .set a imm => Sys2Proof.Machine.execSet a imm s
  | .get a imm => Sys2Proof.Machine.execGet a imm s
  -- 40_crc16.md
  | .crcinit => Sys2Proof.Machine.execCrcinit s
  | .crcbyte a => Sys2Proof.Machine.execCrcbyte a s
  -- 41_frame_codec.md, 42_transceiver.md
  | .enc a imm => Sys2Proof.Machine.execEnc a imm s
  | .xact => Sys2Proof.Machine.execXact s
  | .dec => Sys2Proof.Machine.execDec s
  -- 43_register_reader.md
  | .read a imm => Sys2Proof.Machine.execRead a imm s
  -- 30_encoding.md R83, R84
  | .req03 sid addr => Sys2Proof.Machine.execReq03 sid addr s
  | .rsp03 sid fc v => Sys2Proof.Machine.execRsp03 sid fc v s

end Sys2Proof.Machine
end

