-- ==== Sys2Proof/WellFormed.lean ====
section
/-! DEFINITION. Which instructions have an encoding: the checks of 30_encoding.md R79 on SET and GET; every other
operand value is legal (R78, R119). -/

namespace Sys2Proof

/-- The instruction is a legal command, or a wire frame, of a block whose `RXCAP` is `cap`. -/
def Instr.wf (cap : Nat) : Instr → Bool
  | .nop => true
  | .set a imm => Machine.setLegal a imm
  | .get a imm => Machine.getLegal cap a imm
  | .crcinit => true
  | .crcbyte _ => true
  | .enc _ _ => true
  | .xact => true
  | .dec => true
  | .read _ _ => true
  | .req03 _ _ => true
  | .rsp03 _ _ _ => true

end Sys2Proof
end

