-- ==== Sys2Proof/Decode.lean ====
section
/-! DEFINITION. Decoding command words (30_encoding.md R90) and wire frames (R83, R84), total and rejecting by name;
after it the encoder, from the same tables. -/

namespace Sys2Proof

open Machine

/-- Why a packet is no instruction. A rejected command word is illegal and answered `IllegalCommand` (30_encoding.md
R86); rejected bytes on the line are bytes like any other (20_memory.md R59). -/
inductive Reject where
  /-- No row of 30_encoding.md R77 has this opcode (U16). -/
  | reservedOpcode (op : Byte)
  /-- A must-be-zero field is not zero (U17). -/
  | mustBeZero
  /-- A SET that 30_encoding.md R79 forbids (U18, U19). -/
  | illegalSet (a : Byte) (imm : Half)
  /-- A GET that 30_encoding.md R79 forbids (U17, U18, U19). -/
  | illegalGet (a : Byte) (imm : Half)
  /-- The bytes are of no length a table row has. -/
  | frameLength (n : Nat)
  /-- The bytes differ from the fixed bytes of the row of their length. -/
  | framePattern
  /-- The last two bytes are not the CRC of the bytes before them. -/
  | frameCrc
deriving DecidableEq, Repr

/-- The `op` column of 30_encoding.md R77. -/
def Opcode.code : Opcode → Byte
  | .nop => 0x00
  | .set => 0x01
  | .get => 0x02
  | .crcinit => 0x10
  | .crcbyte => 0x11
  | .enc => 0x20
  | .xact => 0x21
  | .dec => 0x22
  | .read => 0x30

/-- The format column of 30_encoding.md R77. -/
def Opcode.format : Opcode → Format
  | .nop => .n
  | .set => .r
  | .get => .r
  | .crcinit => .n
  | .crcbyte => .b
  | .enc => .a
  | .xact => .n
  | .dec => .n
  | .read => .a

/-- The nine rows of 30_encoding.md R77, in order. -/
def Opcode.all : List Opcode := [.nop, .set, .get, .crcinit, .crcbyte, .enc, .xact, .dec, .read]

/-- The mask column of 30_encoding.md R77, by format. -/
def Format.mask : Format → Word
  | .n => 0xFFFFFFFF
  | .b => 0xFF00FFFF
  | .r => 0xFF000000
  | .a => 0xFF000000

/-- The match column of 30_encoding.md R77. -/
def Opcode.pattern (o : Opcode) : Word := mkWord o.code 0 0

/-- Step (1) of 30_encoding.md R90: the row whose `op` equals the field. -/
def Opcode.ofCode (b : Byte) : Option Opcode := Opcode.all.find? (fun o => o.code == b)

/-- Step (2) of 30_encoding.md R90: the must-be-zero fields of the format. -/
def Format.fieldsOk (f : Format) (w : Word) : Bool :=
  match f with
  | .n => aField w == 0 && immField w == 0
  | .b => immField w == 0
  | .r => true
  | .a => true

/-- Steps (3) and (4) of 30_encoding.md R90: the command with its operands (R78), SET and GET checked by R79. -/
def Opcode.withOperands (cap : Nat) (a : Byte) (imm : Half) : Opcode → Except Reject Instr
  | .nop => .ok .nop
  | .set => if setLegal a imm then .ok (.set a imm) else .error (.illegalSet a imm)
  | .get => if getLegal cap a imm then .ok (.get a imm) else .error (.illegalGet a imm)
  | .crcinit => .ok .crcinit
  | .crcbyte => .ok (.crcbyte a)
  | .enc => .ok (.enc a imm)
  | .xact => .ok .xact
  | .dec => .ok .dec
  | .read => .ok (.read a imm)

/-- The command a word spells on a block whose `RXCAP` is `cap`, or why it is illegal (30_encoding.md R90). -/
def decodeCommand (cap : Nat) (w : Word) : Except Reject Instr :=
  match Opcode.ofCode (opField w) with
  | none => .error (.reservedOpcode (opField w))
  | some o =>
    if o.format.fieldsOk w then o.withOperands cap (aField w) (immField w) else .error .mustBeZero

/-- The wire frame that a sequence of bytes is (30_encoding.md R83, R84): length, fixed bytes and CRC. -/
def decodeFrame (bytes : List Byte) : Except Reject Instr :=
  match bytes with
  | [sid, fc, ah, al, ch, cl, _, _] =>
    if fc = Config.functionCode ∧ ch = hi Config.regCount ∧ cl = lo Config.regCount then
      if crcMatches bytes then .ok (.req03 sid (join ah al)) else .error .frameCrc
    else .error .framePattern
  | [sid, fc, n, vh, vl, _, _] =>
    if n = Config.byteCount then
      if crcMatches bytes then .ok (.rsp03 sid fc (join vh vl)) else .error .frameCrc
    else .error .framePattern
  | _ => .error (.frameLength bytes.length)

/-- Decoding is total on packets of both kinds. -/
def decode (cap : Nat) : Packet → Except Reject Instr
  | .word w => decodeCommand cap w
  | .frame bytes => decodeFrame bytes

/-! ### The encoder -/

/-- The command word `{op, a, imm}` of a row, unused fields 0 (30_encoding.md R88). -/
def Opcode.word (o : Opcode) (a : Byte) (imm : Half) : Word := mkWord o.code a imm

/-- The packet that spells an instruction (30_encoding.md R75, R77, R83, R84). -/
def encode : Instr → Packet
  | .nop => .word (Opcode.nop.word 0 0)
  | .set a imm => .word (Opcode.set.word a imm)
  | .get a imm => .word (Opcode.get.word a imm)
  | .crcinit => .word (Opcode.crcinit.word 0 0)
  | .crcbyte a => .word (Opcode.crcbyte.word a 0)
  | .enc a imm => .word (Opcode.enc.word a imm)
  | .xact => .word (Opcode.xact.word 0 0)
  | .dec => .word (Opcode.dec.word 0 0)
  | .read a imm => .word (Opcode.read.word a imm)
  | .req03 sid addr => .frame (encodeRequest sid addr)
  | .rsp03 sid fc v => .frame (encodeResponse sid fc v)

/-! ### The host's numbering of bits -/

/-- The bytes of a frame of `nbits` bits whose byte `k` is bits `8 k + 7` down to `8 k` of `w`. DESIGN CHOICE, log 6,
safe: the opcode table numbers no bit of a wire frame. -/
def frameOfNat (nbits w : Nat) : List Byte := (List.range ((nbits + 7) / 8)).map (byteOf w)

/-- A command word has 32 bits and is carried whole (20_memory.md R52); anything longer is a frame on the line. -/
def packetOfNat (nbits w : Nat) : Packet :=
  if nbits ≤ 32 then .word (BitVec.ofNat 32 w) else .frame (frameOfNat nbits w)

/-- The instruction the decoder reads from `nbits` bits, bit 0 the least significant of the first word or byte, on a
block with the default parameters. -/
def decodeTableWord (nbits w : Nat) : Option Instr := (decode Params.standard.rxcap (packetOfNat nbits w)).toOption

end Sys2Proof
end

