-- ==== Sys2Proof/Machine/Turn.lean ====
section
/-! DEFINITION. What the next turn asks for: an instruction fetched from the command port or the line, or a step with no
instruction (00_scope.md R9, 30_encoding.md R76, 42_transceiver.md R141, 43_register_reader.md R161). -/

namespace Sys2Proof.Machine

/-- What a step does: run an instruction, or move to a state. -/
inductive Todo where
  | run (i : Instr) (s : State)
  | move (s : State)
deriving DecidableEq, Repr

namespace State

/-- Whose turn it is; where the schedule says nothing, the block's (log 2). -/
def turn (s : State) : Turn := s.schedule.headD .block

/-- The turn begins: it leaves the schedule, and the response port shows nothing until this step responds
(10_state.md R27: `rsp_valid` is 1 in the step that emits a response word). -/
def startTurn (s : State) : State := { s with schedule := s.schedule.tail, rsp := none }

/-- Acceptance (30_encoding.md R76): the word leaves the host's hands and `Cmd(w)` is recorded. -/
def accept (w : Word) (s : State) : State :=
  { s with hostCmds := s.hostCmds.tail, history := s.history ++ [.cmd w] }

end State

/-- One transition of the sequencer (42_transceiver.md R141, 43_register_reader.md R161). A waiting state is left only
when `TIMER = 0` (10_state.md R29); until then, and in `IDLE`, the block has no step of its own. -/
def sequencerStep (s : State) : State :=
  match s.seq with
  | .idle => s
  | .txen => stepDirOn s
  | .write => stepTx s
  | .settle => if s.timer = 0#16 then stepDirOff s else s
  | .rxwait => if s.timer = 0#16 then stepRxRead s else s
  | .eval => stepEval s
  | .rdelay => if s.timer = 0#16 then stepRetry s else s

/-- The block's turn: in `IDLE` it accepts the word on the port, if there is one; else the sequencer steps. A command
presented while `SEQ != IDLE` is held (30_encoding.md R76). -/
def blockTurn (s : State) : Todo :=
  match s.seq, s.cmdWord with
  | .idle, some w =>
    match decodeCommand s.params.rxcap w with
    | .ok i => .run i (s.accept w)
    | .error _ => .move (answerIllegal (s.accept w))
  | _, _ => .move (sequencerStep s)

/-- The LINE agent's turn: a frame of the table is run as one, any other bytes arrive just the same. -/
def lineTurn (bytes : List Byte) (s : State) : Todo :=
  match decodeFrame bytes with
  | .ok i => .run i s
  | .error _ => .move (s.arrive bytes)

/-- What the next step does. -/
def plan (s : State) : Todo :=
  match s.turn with
  | .block => blockTurn s.startTurn
  | .tick => .move s.startTurn.tickEvent
  | .line bytes => lineTurn bytes s.startTurn
  | .reset => .move s.startTurn.resetEvent

/-- `s` with the packet of `nbits` bits of `w` where the next step fetches: a command word at the head of the host's
words with the block in `IDLE` and on turn, a frame as the LINE agent's turn (log 3, log 6). -/
def placeFetch (s : State) (nbits w : Nat) : State :=
  match packetOfNat nbits w with
  | .word cw => { s with seq := .idle, hostCmds := cw :: s.hostCmds, schedule := .block :: s.schedule }
  | .frame bytes => { s with schedule := .line bytes :: s.schedule }

end Sys2Proof.Machine
end

