-- ==== Sys2Proof/Machine/Step.lean ====
section
/-! DEFINITION. One step of the machine. -/

namespace Sys2Proof.Machine

/-- One atomic step of the agent whose turn it is (00_scope.md R9). -/
def step (s : State) : Host.Outcome State Fault Refusal :=
  match plan s with
  | .run i s' => exec i s'
  | .move s' => .next s'

/-- `s` with the instruction `w` where the very next step fetches it. -/
def State.withFetchWord (s : State) (nbits w : Nat) : State := placeFetch s nbits w

end Sys2Proof.Machine
end

