-- ==== Sys2Proof/Machine/PollHost.lean ====
section
/-! DEFINITION. The HOST agent's side as pure functions: the mnemonics and pseudo-commands of 30_encoding.md R88, R89 and
the reference poll cycle of 45_host_poll_cycle.md R195 to R200. The host is outside the block (00_scope.md R4); these
functions say which words it presents and what it makes of the answers (logs 16 and 17). -/

namespace Sys2Proof.Machine

/-! ### Assembler (30_encoding.md R88, R89) -/

/-- `SET <regname>, <value>`. -/
def asmSet (r : Reg) (v : Half) : Instr := .set r.index v

/-- `GET <regname>`, any name but the two windows. -/
def asmGet (r : Reg) : Instr := .get r.index 0

/-- `GET TXBUF[<i>]`. -/
def asmGetTx (i : Half) : Instr := .get Reg.txbuf.index i

/-- `GET RXBUF[<i>]`. -/
def asmGetRx (i : Half) : Instr := .get Reg.rxbuf.index i

/-- The word a line assembles to; a wire frame is no command and has none. -/
def assemble (i : Instr) : Option Word :=
  match encode i with
  | .word w => some w
  | .frame _ => none

/-- The pseudo-command `CRC16 b0, ..., bk`. -/
def crc16Commands (bytes : List Byte) : List Instr := .crcinit :: bytes.map .crcbyte

/-- The first two commands of the pseudo-command `READ1`. -/
def read1Commands (sid : Byte) (addr : Half) : List Instr := [.enc sid addr, .xact]

/-- How `READ1` goes on after the XACT response: with `RXLEN` 0 the host reports `NoResponse` itself, else `DEC`. -/
def read1Continue (xactResponse : Word) : Except ReadError Instr :=
  if immField xactResponse = 0 then .error .noResponse else .ok .dec

/-! ### The poll cycle (45_host_poll_cycle.md R195) -/

/-- The commands of one cycle: a READ of every address, in order. -/
def pollCommands (sid : Byte) (addrs : List Half) : List Instr := addrs.map (.read sid)

/-- Neither a command, nor a response word, nor `Reset`: what the host awaits on the port stays as it is. -/
def Event.keepsPort : Event → Bool
  | .cmd _ | .resp _ | .reset => false
  | .dir _ | .tx _ | .rxRead _ | .arrive _ | .tick => true

/-- The response words of a history that answer the command word `c`, in order; `awaited` says whether one is already
outstanding. A command that `Reset` cancels has no answer (70_reset_and_hazards.md R236). -/
def answersTo (c : Word) (awaited : Bool) : List Event → List Word
  | [] => []
  | e :: h =>
    match e with
    | .cmd w => answersTo c (w == c) h
    | .resp w => if awaited then w :: answersTo c false h else answersTo c false h
    | .reset => answersTo c false h
    | .dir _ | .tx _ | .rxRead _ | .arrive _ | .tick => answersTo c awaited h

/-- A Snapshot: an ordered mapping from register address to register value (R200). -/
abbrev Snapshot := List (Half × Half)

/-- `snapshot[addr] <- v`: an address keeps its place. -/
def Snapshot.put : Snapshot → Half → Half → Snapshot
  | [], a, v => [(a, v)]
  | (b, u) :: m, a, v => if b = a then (a, v) :: m else (b, u) :: Snapshot.put m a v

/-- One READ's answer: an address whose status is not `OK` is skipped (R196). -/
def Snapshot.answer (m : Snapshot) (addr : Half) (response : Word) : Snapshot :=
  if opField response = Status.ok.code then m.put addr (immField response) else m

/-- The Snapshot of one cycle, built fresh from the events of that cycle, in the order of the address list (R195, R196,
R200). An address enters only through a response word to a READ of that very address, so that one whose READ failed, was
cancelled by `Reset` or never came is absent. Where an address is read again, the last success counts
(DESIGN CHOICE, log 17, unsafe). -/
def snapshotOf (sid : Byte) (addrs : List Half) (cycle : List Event) : Snapshot :=
  addrs.foldl (fun m a => (answersTo (Opcode.read.word sid a) false cycle).foldl (fun m w => m.answer a w) m) []

/-- What the cycle hands to the sink: nothing when the Snapshot is empty (R197). -/
def published (m : Snapshot) : Option Snapshot := if m.isEmpty then none else some m

end Sys2Proof.Machine
end

