-- ==== Sys2Proof/Safety.lean ====
section
/-! DEFINITION. What counts as a safe run: the invariants of 10_state.md R35 and of the buffers, what the event history
must look like (20_memory.md R63, 30_encoding.md R80), and runs of many steps. -/

namespace Sys2Proof.Machine

/-! ### Runs -/

/-- `n` steps. -/
def run : Nat → State → Result
  | 0, s => .next s
  | n + 1, s =>
    match step s with
    | .next t => run n t
    | .fault r => .fault r
    | .refused r => .refused r

/-- The instruction the next step runs, if it runs one. -/
def fetched (s : State) : Option Instr :=
  match plan s with
  | .run i _ => some i
  | .move _ => none

/-- The turns from the start of a wait of `n` ticks up to the turn of the block that ends it: any bytes, at least `n` ticks,
turns of the block only while ticks are still missing, no `Reset` (10_state.md R29). With `n = 0` it is whatever TIME and
LINE do before an enabled step of the block is taken (00_scope.md R9). -/
def waitTurns : Nat → List Turn → Bool
  | n, [] => n == 0
  | n, .tick :: ts => waitTurns (n - 1) ts
  | n, .line _ :: ts => waitTurns n ts
  | n, .block :: ts => n != 0 && waitTurns n ts
  | _, .reset :: _ => false

/-- The bytes that arrive during the turns, in order. -/
def bytesIn (ts : List Turn) : List Byte :=
  ts.flatMap fun
    | .line bytes => bytes
    | .block | .tick | .reset => []

/-- The events the turns of TIME and LINE record. -/
def eventsIn (ts : List Turn) : List Event :=
  ts.flatMap fun
    | .line bytes => bytes.map .arrive
    | .tick => [.tick]
    | .block | .reset => []

/-- The turns of one transaction from `TXEN` to its `RxRead`: what comes before each of its four steps of the block. -/
structure Sending where
  /-- Before `Dir(1)`. -/
  enable : List Turn
  /-- Before `Tx`. -/
  write : List Turn
  /-- The settle wait, before `Dir(0)`. -/
  settle : List Turn
  /-- The response wait, before `RxRead`. -/
  wait : List Turn
deriving DecidableEq, Repr

/-- All its turns, the four of the block among them (42_transceiver.md R136 to R140). -/
def Sending.turns (x : Sending) : List Turn :=
  x.enable ++ .block :: (x.write ++ .block :: (x.settle ++ .block :: (x.wait ++ [.block])))

/-- Each step of the block is taken at its first turn at which it is enabled. -/
def Sending.fits (x : Sending) (tSettle tResp : Half) : Bool :=
  waitTurns 0 x.enable && waitTurns 0 x.write && waitTurns tSettle.toNat x.settle && waitTurns tResp.toNat x.wait

/-! ### The invariants of the state -/

/-- The items of 10_state.md R35 that are not true of every `State` by the way it is built (items 2 and 7 are). -/
structure RunInv (s : State) : Prop where
  /-- Item 1: `de = 1` exactly in `WRITE` and `SETTLE`. -/
  de_iff : s.de = true ↔ s.seq = .write ∨ s.seq = .settle
  /-- Item 3. -/
  rxlen_le : s.rxlen.toNat ≤ s.params.rxcap
  /-- Item 4. -/
  reading : s.seq = .eval ∨ s.seq = .rdelay → s.cmdop = .read
  /-- Item 5. -/
  txvalid_of_busy : s.seq ≠ .idle → s.txvalid = true
  /-- Item 6, while an attempt is under way. -/
  attempts_under_way : s.cmdop = .read → s.seq = .write ∨ s.seq = .settle ∨ s.seq = .rxwait ∨ s.seq = .eval →
    s.attempts.toNat + s.retryLeft.toNat = s.retryCount.toNat + 1
  /-- Item 6, before an attempt. -/
  attempts_before : s.cmdop = .read → s.seq = .txen ∨ s.seq = .rdelay →
    s.attempts.toNat + s.retryLeft.toNat = s.retryCount.toNat

/-- Which buffer bytes hold a value, and `TIMER` outside a wait. -/
structure BufferInv (s : State) : Prop where
  /-- `TXBUF` is in canonical form. -/
  txbuf_wf : s.txbuf.wf = true
  /-- `RXBUF` is in canonical form. -/
  rxbuf_wf : s.rxbuf.wf = true
  /-- `TXBUF` holds 8 bytes when `TXVALID = 1` and none before (10_state.md R23, R36). -/
  txbuf_holds : ∀ i, (s.txbuf.find i).isSome = true ↔ s.txvalid = true ∧ i < 8
  /-- `RXBUF` holds exactly the bytes below `RXLEN` (10_state.md R31). -/
  rxbuf_holds : ∀ i, (s.rxbuf.find i).isSome = true ↔ i < s.rxlen.toNat
  /-- The request is that of `SLAVE_ID` and `REG_ADDR` (10_state.md R21, 43_register_reader.md R160). -/
  request_eq : s.txvalid = true → s.request = encodeRequest s.slaveId s.regAddr
  /-- A truncated reception fills `RXBUF` (20_memory.md R60). -/
  rxovf_full : s.rxovf = true → s.rxlen.toNat = s.params.rxcap
  /-- `TIMER` is 0 outside a wait (93_implementation_defined.md U14). -/
  timer_zero : s.waiting = false → s.timer = 0

/-! ### The event history -/

/-- Is a command outstanding? None where an event breaks the discipline of the port: one command at a time, one response
for each (30_encoding.md R80, R81); `Reset` cancels (70_reset_and_hazards.md R236). -/
def portEvent : Bool → Event → Option Bool
  | false, .cmd _ => some true
  | true, .resp _ => some false
  | true, .cmd _ => none
  | false, .resp _ => none
  | _, .reset => some false
  | b, .dir _ => some b
  | b, .tx _ => some b
  | b, .rxRead _ => some b
  | b, .arrive _ => some b
  | b, .tick => some b

/-- Where a transaction stands on the line (20_memory.md R63). -/
inductive LinePhase where
  | rest | enabled | sent | listening
deriving DecidableEq, Repr

/-- The order `Dir(1)`, `Tx`, `Dir(0)`, `RxRead`; none where an event breaks it. `Reset` may end it anywhere. -/
def lineEvent : LinePhase → Event → Option LinePhase
  | .rest, .dir true => some .enabled
  | .enabled, .tx _ => some .sent
  | .sent, .dir false => some .listening
  | .listening, .rxRead _ => some .rest
  | _, .dir _ => none
  | _, .tx _ => none
  | _, .rxRead _ => none
  | _, .reset => some .rest
  | p, .cmd _ => some p
  | p, .resp _ => some p
  | p, .arrive _ => some p
  | p, .tick => some p

/-- The phase that each state of the sequencer stands for. -/
def Seq.phase : Seq → LinePhase
  | .idle | .txen | .eval | .rdelay => .rest
  | .write => .enabled
  | .settle => .sent
  | .rxwait => .listening

/-- Run a history through one of the two checks. -/
def follow {α : Type} (f : α → Event → Option α) (a : α) (h : List Event) : Option α := h.foldlM f a

/-- The bytes that arrived. -/
def arrivals (h : List Event) : List Byte :=
  h.filterMap fun
    | .arrive b => some b
    | _ => none

/-- What the `RxRead` steps took, one sequence each. -/
def taken (h : List Event) : List (List Byte) :=
  h.filterMap fun
    | .rxRead f => some f
    | _ => none

/-- What the `Tx` steps wrote, one sequence each. -/
def written (h : List Event) : List (List Byte) :=
  h.filterMap fun
    | .tx f => some f
    | _ => none

/-- A word the response port may show (30_encoding.md R80, 60_exceptions.md R205): one of eleven statuses, bits 23:16
zero, `data` zero on every status but `OK`. -/
def legalResponse (w : Word) : Bool :=
  [0x00, 0x01, 0x02, 0x03, 0x10, 0x11, 0x12, 0x13, 0xE0, 0xE1, 0xE2].contains (opField w) &&
    aField w == 0 && (opField w == 0 || immField w == 0)

/-- What holds of the history and the line in every reachable state. -/
structure HistoryInv (s : State) : Prop where
  /-- Every command accepted is answered before the next, and one is outstanding exactly when `SEQ != IDLE`. -/
  port : follow portEvent false s.history = some s.busy
  /-- The line events come in the order of 20_memory.md R63. -/
  line : follow lineEvent .rest s.history = some s.seq.phase
  /-- `LINE_TX` is the record of every sequence handed over (10_state.md R32). -/
  lineTx_eq : s.lineTx = written s.history
  /-- Every byte that arrived was taken once, in arrival order, or is still in `LINE_RX` (20_memory.md R57, R63). -/
  lineRx_eq : arrivals s.history = (taken s.history).flatten ++ s.lineRx
  /-- Only requests are written to the line (42_transceiver.md R135, R143). -/
  requests : ∀ f ∈ s.lineTx, ∃ sid addr, f = encodeRequest sid addr
  /-- Only legal response words are emitted. -/
  responses : ∀ w, Event.resp w ∈ s.history → legalResponse w = true

end Sys2Proof.Machine
end

