-- ==== Sys2Proof/Certificates/Slice0/Obligations.lean ====
section
/-! DEFINITION. The statements for the provers. Each docstring names the rule of spec/ the statement formalises. -/

open Sys2Proof Sys2Proof.Machine

namespace Sys2Proof.Claims

/-! ### Words the statements use -/

/-- `s` after a step that shows the response word `w`: the port holds it and `Resp(w)` is recorded (30_encoding.md R80). -/
def answered (w : Word) (s : State) : State := { s with rsp := some w, history := s.history ++ [.resp w] }

/-- `s` at the start of a step: the turn is spent and the port shows nothing (10_state.md R27). -/
def turnTaken (s : State) : State := { s with schedule := s.schedule.tail, rsp := none }

/-- Is it the block's turn: the next on the schedule, or nothing is scheduled (log 2)? -/
def blocksTurn (s : State) : Prop := s.schedule.head? = none ∨ s.schedule.head? = some .block

/-- The frame `f` with bit `k` flipped, bit 0 the least significant of byte 0. -/
def flipBit (f : List Byte) (k : Nat) : List Byte := f.modify (k / 8) (fun b => b ^^^ (1#8 <<< (k % 8)))

/-- The CRC commands among the commands a history accepts. -/
def crcCommands (cap : Nat) (h : List Event) : List Instr :=
  h.filterMap fun
    | .cmd w =>
      match decodeCommand cap w with
      | .ok .crcinit => some .crcinit
      | .ok (.crcbyte a) => some (.crcbyte a)
      | _ => none
    | _ => none

/-- One attempt of a READ: its transaction, and the turns of TIME and LINE between `RxRead` and `Eval`. Where another
attempt follows, also the delay, the turns from `Eval` up to `Retry`. -/
structure Attempt where
  send : Sending
  judge : List Turn
  delay : List Turn
deriving DecidableEq, Repr

/-- The turns from `TXEN` to the end of `Eval`. -/
def Attempt.turns (a : Attempt) : List Turn := a.send.turns ++ (a.judge ++ [.block])

/-- The turns of an attempt that is followed by another: the delay and the `Retry` step come after. -/
def Attempt.retried (a : Attempt) : List Turn := a.turns ++ (a.delay ++ [.block])

/-- Each step of the attempt is taken at the block's first turn at which it is enabled. -/
def Attempt.fits (a : Attempt) (tSettle tResp : Half) : Prop :=
  a.send.fits tSettle tResp = true ∧ waitTurns 0 a.judge = true

/-- So is the `Retry` after it. -/
def Attempt.delayFits (a : Attempt) (retryDelay : Half) : Prop := waitTurns retryDelay.toNat a.delay = true

/-- What each of a series of attempts receives, when `carry` is in `LINE_RX` before the first. -/
def received (carry : List Byte) : List Attempt → List (List Byte)
  | [] => []
  | a :: as => (carry ++ bytesIn a.send.turns) :: received (bytesIn a.judge ++ bytesIn a.delay) as

/-- What is in `LINE_RX` after a series of attempts and their delays. -/
def carryAfter (carry : List Byte) : List Attempt → List Byte
  | [] => carry
  | a :: as => carryAfter (bytesIn a.judge ++ bytesIn a.delay) as

/-- One READ of a poll cycle, from its acceptance on: the events while it runs, its response word or none where `Reset`
cancels it, and the events up to the next READ. -/
structure Exchange where
  addr : Half
  quiet : List Event
  answer : Option Word
  gap : List Event
deriving DecidableEq, Repr

/-- Nothing but time and the line while the READ runs; anything but another READ afterwards. -/
def Exchange.fits (x : Exchange) : Prop :=
  (∀ e ∈ x.quiet, e.keepsPort = true) ∧ ∀ w, .cmd w ∈ x.gap → opField w ≠ 0x30

/-- Its events. -/
def Exchange.events (sid : Byte) (x : Exchange) : List Event :=
  .cmd (mkWord 0x30 sid x.addr) ::
    (x.quiet ++ (match x.answer with | some w => .resp w | none => .reset) :: x.gap)

/-- In the history `h` a READ of `addr` was answered `OK` with the value `v`. -/
def answeredOk (sid : Byte) (addr v : Half) (h : List Event) : Prop :=
  ∃ before quiet after w, h = before ++ .cmd (mkWord 0x30 sid addr) :: (quiet ++ .resp w :: after) ∧
    (∀ e ∈ quiet, e.keepsPort = true) ∧ opField w = 0x00 ∧ immField w = v

end Sys2Proof.Claims

open Sys2Proof.Claims

/-! ### Encoding -/

/-- 30_encoding.md R77, R83, R84: one word or frame of every row, written out from the encoding. -/
def Obligations.TableWordsDecode : Prop :=
  decodeCommand 256 0x00000000 = .ok .nop ∧
  decodeCommand 256 0x010100C8 = .ok (.set 0x01 0x00C8) ∧
  decodeCommand 256 0x02300004 = .ok (.get 0x30 0x0004) ∧
  decodeCommand 256 0x10000000 = .ok .crcinit ∧
  decodeCommand 256 0x11AB0000 = .ok (.crcbyte 0xAB) ∧
  decodeCommand 256 0x20F71234 = .ok (.enc 0xF7 0x1234) ∧
  decodeCommand 256 0x21000000 = .ok .xact ∧
  decodeCommand 256 0x22000000 = .ok .dec ∧
  decodeCommand 256 0x30011006 = .ok (.read 0x01 0x1006) ∧
  decodeFrame [0x01, 0x03, 0x10, 0x00, 0x00, 0x01, 0x80, 0xCA] = .ok (.req03 0x01 0x1000) ∧
  decodeFrame [0x01, 0x03, 0x02, 0x12, 0x34, 0xB5, 0x33] = .ok (.rsp03 0x01 0x03 0x1234)

/-- Decoding the encoding of a well-formed instruction gives it back, with every operand at every value (30_encoding.md
R77, R78, R83, R84). -/
def Obligations.DecodeOfEncode : Prop := ∀ (cap : Nat) (i : Instr), i.wf cap = true → decode cap (encode i) = .ok i

/-- What is decoded is well-formed and its encoding is the packet it came from: no packet has a second meaning and no
bit is ignored (30_encoding.md R79, R86, R90). -/
def Obligations.EncodeOfDecode : Prop :=
  ∀ (cap : Nat) (p : Packet) (i : Instr), decode cap p = .ok i → i.wf cap = true ∧ encode i = p

/-- 30_encoding.md R79, R90: exactly which words are commands, and that a word is the command it spells. -/
def Obligations.CommandWordsLegalExactly : Prop :=
  (∀ (cap : Nat) (w : Word) (i : Instr), decodeCommand cap w = .ok i → encode i = .word w) ∧
  ∀ (cap : Nat) (w : Word),
    (∃ i, decodeCommand cap w = .ok i) ↔
      ((opField w = 0x00 ∨ opField w = 0x10 ∨ opField w = 0x21 ∨ opField w = 0x22) ∧ aField w = 0 ∧ immField w = 0) ∨
      (opField w = 0x01 ∧ (aField w = 0x00 ∨ aField w = 0x01 ∨ aField w = 0x03 ∨
        (aField w = 0x02 ∧ (immField w).toNat ≤ 255))) ∨
      (opField w = 0x02 ∧
        ((aField w ∈ [0x00, 0x01, 0x02, 0x03, 0x10, 0x11, 0x12, 0x13, 0x14, 0x15, 0x16, 0x17] ∧ immField w = 0) ∨
         (aField w = 0x20 ∧ (immField w).toNat ≤ 7) ∨ (aField w = 0x30 ∧ (immField w).toNat < cap))) ∨
      (opField w = 0x11 ∧ immField w = 0) ∨
      opField w = 0x20 ∨ opField w = 0x30

/-- 30_encoding.md R86: an illegal word is accepted, answered 0xE0000000 in the same step and changes nothing else; the
247 opcodes outside the table are all illegal, and so is a nonzero must-be-zero field. -/
def Obligations.IllegalWordAnswered : Prop :=
  (∀ (s : State) (w : Word) (ws : List Word) (e : Reject), blocksTurn s → s.seq = .idle → s.hostCmds = w :: ws →
    decodeCommand s.params.rxcap w = .error e →
    step s = .next (answered 0xE0000000
      { turnTaken s with hostCmds := ws, history := s.history ++ [.cmd w] })) ∧
  (∀ (cap : Nat) (w : Word), opField w ∉ [0x00, 0x01, 0x02, 0x10, 0x11, 0x20, 0x21, 0x22, 0x30] →
    ∃ e, decodeCommand cap w = .error e) ∧
  (∀ (cap : Nat) (w : Word), opField w ∈ [0x00, 0x10, 0x21, 0x22] → aField w ≠ 0 ∨ immField w ≠ 0 →
    ∃ e, decodeCommand cap w = .error e) ∧
  (∀ (cap : Nat) (w : Word), opField w = 0x11 → immField w ≠ 0 → ∃ e, decodeCommand cap w = .error e)

/-! ### A step runs what was decoded -/

/-- 30_encoding.md R76: when the block's turn finds a legal command on the port in `IDLE`, the step is that command's
meaning at the state where the word has been taken and `Cmd(w)` recorded. The schedule is the model's (log 2, log 3). -/
def Obligations.StepRunsAcceptedCommand : Prop :=
  ∀ (s : State) (w : Word) (ws : List Word) (i : Instr), blocksTurn s → s.seq = .idle → s.hostCmds = w :: ws →
    decodeCommand s.params.rxcap w = .ok i →
    step s = exec i { turnTaken s with hostCmds := ws, history := s.history ++ [.cmd w] }

/-- 20_memory.md R59: bytes of the line that are a frame of the table run that frame's meaning (log 5). -/
def Obligations.StepRunsArrivedFrame : Prop :=
  ∀ (s : State) (bytes : List Byte) (i : Instr), s.schedule.head? = some (.line bytes) → decodeFrame bytes = .ok i →
    step s = exec i (turnTaken s)

/-- 30_encoding.md R76: while `SEQ != IDLE` no command is accepted and none is lost; a command leaves the host only in
the step that accepts it. -/
def Obligations.HostHeldWhileBusy : Prop :=
  (∀ s : State, s.seq ≠ .idle → ∃ t, step s = .next t ∧ t.hostCmds = s.hostCmds ∧
    t.history.filter (fun e => e matches .cmd _) = s.history.filter (fun e => e matches .cmd _)) ∧
  (∀ s t : State, step s = .next t → t.hostCmds ≠ s.hostCmds →
    s.seq = .idle ∧ blocksTurn s ∧ ∃ w, s.hostCmds = w :: t.hostCmds ∧
      t.history.filter (fun e => e matches .cmd _) = s.history.filter (fun e => e matches .cmd _) ++ [.cmd w])

/-! ### System commands -/

/-- 44_system_commands.md R176: NOP answers 0x00000000 and does nothing else; `op = 0x00` with any other bit set is
illegal. -/
def Obligations.NopAnswersZero : Prop :=
  (∀ cap : Nat, decodeCommand cap 0x00000000 = .ok .nop) ∧
  (∀ s : State, exec .nop s = .next (answered 0x00000000 s)) ∧
  (∀ (cap : Nat) (w : Word), opField w = 0x00 → w ≠ 0 → ∃ e, decodeCommand cap w = .error e)

/-- 44_system_commands.md R177: SET of each configuration register, and what is refused. -/
def Obligations.SetWritesRegister : Prop :=
  (∀ (cap : Nat) (a : Byte) (imm : Half), a = 0x00 ∨ a = 0x01 ∨ (a = 0x02 ∧ imm.toNat ≤ 255) ∨ a = 0x03 →
    decodeCommand cap (mkWord 0x01 a imm) = .ok (.set a imm)) ∧
  (∀ (s : State) (imm : Half),
    exec (.set 0x00 imm) s = .next (answered (mkWord 0x00 0x00 imm) { s with tSettle := imm })) ∧
  (∀ (s : State) (imm : Half),
    exec (.set 0x01 imm) s = .next (answered (mkWord 0x00 0x00 imm) { s with tResp := imm })) ∧
  (∀ (s : State) (imm : Half), imm.toNat ≤ 255 →
    exec (.set 0x02 imm) s =
      .next (answered (mkWord 0x00 0x00 imm) { s with retryCount := BitVec.ofNat 8 imm.toNat })) ∧
  (∀ (s : State) (imm : Half),
    exec (.set 0x03 imm) s = .next (answered (mkWord 0x00 0x00 imm) { s with retryDelay := imm })) ∧
  (∀ (s : State) (a : Byte) (imm : Half), s.seq = .idle →
    a ∉ [0x00, 0x01, 0x02, 0x03] ∨ (a = 0x02 ∧ 255 < imm.toNat) →
    exec (.set a imm) s = .next (answered 0xE0000000 s))

/-- 44_system_commands.md R178: GET of each register and each buffer byte, and what is refused. -/
def Obligations.GetReadsRegister : Prop :=
  (∀ s : State,
    exec (.get 0x00 0) s = .next (answered (mkWord 0 0 s.tSettle) s) ∧
    exec (.get 0x01 0) s = .next (answered (mkWord 0 0 s.tResp) s) ∧
    exec (.get 0x02 0) s = .next (answered (mkWord 0 0 (s.retryCount.setWidth 16)) s) ∧
    exec (.get 0x03 0) s = .next (answered (mkWord 0 0 s.retryDelay) s) ∧
    exec (.get 0x10 0) s = .next (answered (mkWord 0 0 (BitVec.ofNat 16
      (4 * s.txvalid.toNat + 2 * s.rxovf.toNat + s.ok.toNat))) s) ∧
    exec (.get 0x11 0) s = .next (answered (mkWord 0 0 s.crcacc) s) ∧
    exec (.get 0x12 0) s = .next (answered (mkWord 0 0 s.value) s) ∧
    exec (.get 0x13 0) s = .next (answered (mkWord 0 0 (s.err.setWidth 16)) s) ∧
    exec (.get 0x14 0) s = .next (answered (mkWord 0 0 s.rxlen) s) ∧
    exec (.get 0x15 0) s = .next (answered (mkWord 0 0 s.attempts) s) ∧
    exec (.get 0x16 0) s = .next (answered (mkWord 0 0 (s.slaveId.setWidth 16)) s) ∧
    exec (.get 0x17 0) s = .next (answered (mkWord 0 0 s.regAddr) s)) ∧
  (∀ (s : State) (imm : Half) (b : Byte), s.txvalid = true → imm.toNat ≤ 7 → s.txbuf.find imm.toNat = some b →
    exec (.get 0x20 imm) s = .next (answered (mkWord 0 0 (b.setWidth 16)) s)) ∧
  (∀ (s : State) (imm : Half) (b : Byte), imm.toNat < s.rxlen.toNat → imm.toNat < s.params.rxcap →
    s.rxbuf.find imm.toNat = some b →
    exec (.get 0x30 imm) s = .next (answered (mkWord 0 0 (b.setWidth 16)) s)) ∧
  (∀ (s : State) (imm : Half), s.seq = .idle → s.txvalid = false → imm.toNat ≤ 7 →
    exec (.get 0x20 imm) s = .next (answered 0xE2000000 s)) ∧
  (∀ (s : State) (imm : Half), s.seq = .idle → s.rxlen.toNat ≤ imm.toNat → imm.toNat < s.params.rxcap →
    exec (.get 0x30 imm) s = .next (answered 0xE2000000 s)) ∧
  (∀ (s : State) (a : Byte) (imm : Half), s.seq = .idle →
    (a ∉ [0x00, 0x01, 0x02, 0x03, 0x10, 0x11, 0x12, 0x13, 0x14, 0x15, 0x16, 0x17, 0x20, 0x30] ∨
     (a ∉ [0x20, 0x30] ∧ imm ≠ 0) ∨ (a = 0x20 ∧ 7 < imm.toNat) ∨ (a = 0x30 ∧ s.params.rxcap ≤ imm.toNat)) →
    exec (.get a imm) s = .next (answered 0xE0000000 s))

/-! ### The CRC generator -/

/-- 40_crc16.md R105: CRCINIT. -/
def Obligations.CrcinitStarts : Prop :=
  (∀ cap : Nat, decodeCommand cap 0x10000000 = .ok .crcinit) ∧
  (∀ s : State, exec .crcinit s = .next (answered 0x0000FFFF { s with crcacc := 0xFFFF })) ∧
  (∀ (cap : Nat) (w : Word), opField w = 0x10 → aField w ≠ 0 ∨ immField w ≠ 0 → ∃ e, decodeCommand cap w = .error e)

/-- 40_crc16.md R106: CRCBYTE, with its corner cases. -/
def Obligations.CrcbyteFeeds : Prop :=
  (∀ (cap : Nat) (a : Byte), decodeCommand cap (mkWord 0x11 a 0x0000) = .ok (.crcbyte a)) ∧
  (∀ (s : State) (a : Byte), exec (.crcbyte a) s =
    .next (answered (mkWord 0 0 (crcStep s.crcacc a)) { s with crcacc := crcStep s.crcacc a })) ∧
  (∀ (cap : Nat) (w : Word), opField w = 0x11 → immField w ≠ 0 → ∃ e, decodeCommand cap w = .error e) ∧
  crcStep 0xFFFF 0x00 = 0x40BF ∧ crcStep 0x0000 0x00 = 0x0000 ∧ crcStep 0x0000 0x01 = 0xC0C1 ∧
  crcStep 0x1234 0x56 = 0xE993 ∧ crcStep 0xFFFF 0x01 = 0x807E

/-- 40_crc16.md R104 item 4: the table form of the byte step, with the seven entries the rule gives. -/
def Obligations.CrcStepTableForm : Prop :=
  (∀ (c : Half) (b : Byte), crcStep c b = (c >>> 8) ^^^ crcRounds 8 ((c ^^^ b.setWidth 16) &&& 0x00FF)) ∧
  crcRounds 8 0x00 = 0x0000 ∧ crcRounds 8 0x01 = 0xC0C1 ∧ crcRounds 8 0x02 = 0xC181 ∧ crcRounds 8 0x03 = 0x0140 ∧
  crcRounds 8 0x80 = 0xA001 ∧ crcRounds 8 0xFE = 0x8081 ∧ crcRounds 8 0xFF = 0x4040

/-- 40_crc16.md R104 items 1 and 3: a frame with its CRC appended passes the check and its own CRC is 0. -/
def Obligations.AppendedCrcLeavesNoResidue : Prop :=
  ∀ s : List Byte, crcMatches (crcAppend s) = true ∧ crc16 (crcAppend s) = 0x0000

/-- 40_crc16.md R104 item 2: flipping any single bit of any frame is detected. -/
def Obligations.SingleBitErrorsDetected : Prop :=
  ∀ (s : List Byte) (k : Nat), k < 8 * (crcAppend s).length → crcMatches (flipBit (crcAppend s) k) = false

/-- 40_crc16.md R108: over any run in which the CRC commands accepted are CRCINIT and then CRCBYTEs, whatever else
happens but a reset, `CRCACC` ends as the CRC of those bytes. -/
def Obligations.AccumulatorComputesCrc : Prop :=
  ∀ (n : Nat) (s t : State) (ev : List Event) (bytes : List Byte), run n s = .next t → t.history = s.history ++ ev →
    Event.reset ∉ ev → crcCommands s.params.rxcap ev = .crcinit :: bytes.map .crcbyte → t.crcacc = crc16 bytes

/-! ### The frame codec -/

/-- 41_frame_codec.md R118, 30_encoding.md R83: ENC writes the request for its operands into `TXBUF`, answers its CRC and
changes nothing else. -/
def Obligations.EncBuildsRequest : Prop :=
  (∀ (cap : Nat) (sid : Byte) (addr : Half), decodeCommand cap (mkWord 0x20 sid addr) = .ok (.enc sid addr)) ∧
  ∀ (s : State) (sid : Byte) (addr : Half), ∃ (c : Half) (buf : Memory),
    c = crc16 [sid, 0x03, hi addr, lo addr, 0x00, 0x01] ∧
    (∀ k, buf.find k =
      if k < 8 then [sid, 0x03, hi addr, lo addr, 0x00, 0x01, lo c, hi c][k]? else s.txbuf.find k) ∧
    exec (.enc sid addr) s = .next (answered (mkWord 0 0 c)
      { s with slaveId := sid, regAddr := addr, txbuf := buf, txvalid := true })

/-- 41_frame_codec.md R116, R117: the shape of every request, and that it passes its own check. -/
def Obligations.RequestShape : Prop :=
  ∀ (sid : Byte) (addr : Half), (encodeRequest sid addr).length = 8 ∧
    (encodeRequest sid addr).take 6 = [sid, 0x03, hi addr, lo addr, 0x00, 0x01] ∧
    crcMatches (encodeRequest sid addr) = true ∧ encode (.req03 sid addr) = .frame (encodeRequest sid addr)

/-- 41_frame_codec.md R123: DEC, by what the decoder says of `RXBUF[0..RXLEN-1]`. -/
def Obligations.DecReportsDecode : Prop :=
  (∀ cap : Nat, decodeCommand cap 0x22000000 = .ok .dec) ∧
  ∀ s : State, s.seq = .idle →
    (s.rxlen = 0 → decodeResponse s.reception = .error .tooShort) ∧
    (∀ v, decodeResponse s.reception = .ok v →
      exec .dec s = .next (answered (mkWord 0 0 v) { s with value := v, ok := true, err := 0x00 })) ∧
    (decodeResponse s.reception = .error .tooShort →
      exec .dec s = .next (answered 0x01000000 { s with ok := false, err := 0x01 })) ∧
    (decodeResponse s.reception = .error .badCrc →
      exec .dec s = .next (answered 0x02000000 { s with ok := false, err := 0x02 })) ∧
    (decodeResponse s.reception = .error .unexpectedLength →
      exec .dec s = .next (answered 0x03000000 { s with ok := false, err := 0x03 }))

/-- 41_frame_codec.md R121, R124: the result of the decoder by length, CRC and byte count. -/
def Obligations.DecodeResultByLength : Prop :=
  ∀ r : List Byte,
    let n := r.length
    let c := crc16 (r.take (n - 2))
    let good := r.getD (n - 2) 0 = lo c ∧ r.getD (n - 1) 0 = hi c
    (decodeResponse r = .error .tooShort ↔ n < 5) ∧
    (decodeResponse r = .error .badCrc ↔ 5 ≤ n ∧ ¬ good) ∧
    (decodeResponse r = .error .unexpectedLength ↔ 5 ≤ n ∧ good ∧ (n ≠ 7 ∨ r.getD 2 0 ≠ 0x02)) ∧
    (∀ v, decodeResponse r = .ok v ↔ n = 7 ∧ good ∧ r.getD 2 0 = 0x02 ∧ v = join (r.getD 3 0) (r.getD 4 0))

/-- 41_frame_codec.md R122: a frame with a valid CRC and byte count 2 decodes whoever sent it and whatever it answers; a
5-byte frame with a good CRC, such as a Modbus exception response, is `UnexpectedLength`. -/
def Obligations.DecodeIgnoresSender : Prop :=
  (∀ (sid fc : Byte) (v : Half), decodeResponse (crcAppend [sid, fc, 0x02, hi v, lo v]) = .ok v) ∧
  (∀ sid fc code : Byte, decodeResponse (crcAppend [sid, fc, code]) = .error .unexpectedLength)

/-- 20_memory.md R55, 41_frame_codec.md R127: a second DEC gives the same response and leaves the same state. -/
def Obligations.DecIdempotent : Prop :=
  ∀ s t : State, exec .dec s = .next t → ∃ w, t.rsp = some w ∧ exec .dec t = .next (answered w t)

/-! ### The transceiver -/

/-- 42_transceiver.md R135: the accepting step of XACT. -/
def Obligations.XactAccepted : Prop :=
  (∀ cap : Nat, decodeCommand cap 0x21000000 = .ok .xact) ∧
  (∀ s : State, s.txvalid = true → exec .xact s = .next { s with cmdop := .xact, seq := .txen }) ∧
  (∀ s : State, s.txvalid = false → s.seq = .idle → exec .xact s = .next (answered 0xE1000000 { s with err := 0xE1 }))

/-- 42_transceiver.md R136, R137, R139: the steps `Dir(1)`, `Tx` and `Dir(0)`. -/
def Obligations.SendSteps : Prop :=
  (∀ s : State, blocksTurn s → s.seq = .txen → step s = .next
    { turnTaken s with
      de := true
      attempts := match s.cmdop with | .read => s.attempts + 1 | .xact => s.attempts
      seq := .write
      history := s.history ++ [.dir true] }) ∧
  (∀ (s : State) (f : List Byte), blocksTurn s → s.seq = .write → f.length = 8 →
    (∀ k, k < 8 → s.txbuf.find k = f[k]?) → step s = .next
      { turnTaken s with
        lineTx := s.lineTx ++ [f]
        timer := s.tSettle
        seq := .settle
        history := s.history ++ [.tx f] }) ∧
  (∀ s : State, blocksTurn s → s.seq = .settle → s.timer = 0 → step s = .next
    { turnTaken s with de := false, timer := s.tResp, seq := .rxwait, history := s.history ++ [.dir false] })

/-- 42_transceiver.md R140, 20_memory.md R57, R60: the step `RxRead` takes everything that arrived and keeps at most
`RXCAP` bytes; an XACT is then answered, a READ goes to `EVAL`. That `RETRY_LEFT` and `CMDOP` are kept when an XACT ends is
the model's choice (log 9). -/
def Obligations.RxReadTakesWhatArrived : Prop :=
  ∀ s : State, blocksTurn s → s.seq = .rxwait → s.timer = 0 →
    ∃ (n : Half) (buf : Memory), n.toNat = min s.lineRx.length s.params.rxcap ∧
      (∀ k, k < n.toNat → buf.find k = s.lineRx[k]?) ∧
      (s.cmdop = .xact → step s = .next (answered (mkWord 0 0 n)
        { turnTaken s with lineRx := [], rxbuf := buf, rxlen := n, rxovf := decide (s.params.rxcap < s.lineRx.length),
                           err := 0x00, seq := .idle, history := s.history ++ [.rxRead s.lineRx] })) ∧
      (s.cmdop = .read → step s = .next
        { turnTaken s with lineRx := [], rxbuf := buf, rxlen := n, rxovf := decide (s.params.rxcap < s.lineRx.length),
                           seq := .eval, history := s.history ++ [.rxRead s.lineRx] })

/-- 10_state.md R29, 42_transceiver.md R138: in a wait the block has no step while `TIMER > 0`, and `k` ticks take `k`
from `TIMER`, never below 0; the turns are spent, the port shows nothing after the first, each `Tick` is recorded, and
nothing else of the state changes. -/
def Obligations.WaitLastsItsTicks : Prop :=
  (∀ s : State, blocksTurn s → s.seq = .settle ∨ s.seq = .rxwait ∨ s.seq = .rdelay → s.timer ≠ 0 →
    step s = .next (turnTaken s)) ∧
  (∀ (k : Nat) (s : State) (rest : List Turn), s.seq = .settle ∨ s.seq = .rxwait ∨ s.seq = .rdelay →
    s.schedule = List.replicate k .tick ++ rest →
    ∃ n : Half, n.toNat = s.timer.toNat - k ∧ run k s = .next
      { s with timer := n, schedule := rest, rsp := if k = 0 then s.rsp else none,
               history := s.history ++ List.replicate k .tick })

/-- 42_transceiver.md R135 to R144: a whole XACT. From acceptance to response it takes five steps of the block and at least
`T_SETTLE + T_RESP` ticks, whatever TIME and LINE do before each step and however often the block is given a turn inside a
wait; the events come in the order of 20_memory.md R63 and the answer is the number of bytes kept. -/
def Obligations.XactRunsToCompletion : Prop :=
  ∀ (s : State) (ws : List Word) (x : Sending) (rest : List Turn), s.seq = .idle → s.txvalid = true →
    s.hostCmds = 0x21000000 :: ws → x.fits s.tSettle s.tResp = true → s.schedule = .block :: (x.turns ++ rest) →
    ∃ t, run (1 + x.turns.length) s = .next t ∧
      let got := s.lineRx ++ bytesIn x.turns
      t.seq = .idle ∧ t.de = false ∧ t.err = 0x00 ∧ t.lineRx = [] ∧ t.hostCmds = ws ∧ t.schedule = rest ∧
      t.rxlen.toNat = min got.length s.params.rxcap ∧ t.rsp = some (mkWord 0 0 t.rxlen) ∧
      t.reception = got.take s.params.rxcap ∧ t.rxovf = decide (s.params.rxcap < got.length) ∧
      t.lineTx = s.lineTx ++ [s.request] ∧
      t.history = s.history ++ [.cmd 0x21000000] ++ eventsIn x.enable ++ [.dir true] ++ eventsIn x.write ++
        [.tx s.request] ++ eventsIn x.settle ++ [.dir false] ++ eventsIn x.wait ++
        [.rxRead got, .resp (mkWord 0 0 t.rxlen)] ∧
      t.value = s.value ∧ t.ok = s.ok ∧ t.txvalid = s.txvalid ∧ t.attempts = s.attempts ∧ t.crcacc = s.crcacc ∧
      t.slaveId = s.slaveId ∧ t.regAddr = s.regAddr ∧ t.txbuf = s.txbuf

/-- 20_memory.md R60, 70_reset_and_hazards.md R249: when more than `RXCAP` bytes arrived, `RXOVF` is set, `RXLEN` is
`RXCAP` and what was kept decodes to no value. -/
def Obligations.OverflowNeverDecodes : Prop :=
  ∀ s t : State, blocksTurn s → s.seq = .rxwait → s.timer = 0 → s.params.rxcap < s.lineRx.length → step s = .next t →
    t.rxovf = true ∧ t.rxlen.toNat = s.params.rxcap ∧ ∀ v, decodeResponse t.reception ≠ .ok v

/-! ### The register reader -/

/-- 43_register_reader.md R156: the accepting step of READ. -/
def Obligations.ReadAccepted : Prop :=
  (∀ (cap : Nat) (sid : Byte) (addr : Half), decodeCommand cap (mkWord 0x30 sid addr) = .ok (.read sid addr)) ∧
  ∀ (s : State) (sid : Byte) (addr : Half), ∃ buf : Memory,
    (∀ k, buf.find k = if k < 8 then (encodeRequest sid addr)[k]? else s.txbuf.find k) ∧
    exec (.read sid addr) s = .next
      { s with slaveId := sid, regAddr := addr, txbuf := buf, txvalid := true, ok := false, attempts := 0,
               retryLeft := s.retryCount, cmdop := .read, seq := .txen }

/-- 43_register_reader.md R159, R161, R162: the step `Eval` for each thing an attempt can come to. That `RETRY_LEFT` and
`CMDOP` are kept when the READ ends is the model's choice (log 9). -/
def Obligations.EvalJudgesAttempt : Prop :=
  ∀ s : State, blocksTurn s → s.seq = .eval →
    (∀ v, s.rxlen ≠ 0 → decodeResponse s.reception = .ok v → step s = .next (answered (mkWord 0 0 v)
      { turnTaken s with value := v, ok := true, err := 0x00, seq := .idle })) ∧
    (∀ code : Byte,
      (s.rxlen = 0 ∧ code = 0x10) ∨
      (s.rxlen ≠ 0 ∧ decodeResponse s.reception = .error .tooShort ∧ code = 0x11) ∨
      (s.rxlen ≠ 0 ∧ decodeResponse s.reception = .error .badCrc ∧ code = 0x12) ∨
      (s.rxlen ≠ 0 ∧ decodeResponse s.reception = .error .unexpectedLength ∧ code = 0x13) →
      (s.retryLeft = 0 → step s = .next (answered (mkWord code 0 0) { turnTaken s with err := code, seq := .idle })) ∧
      (s.retryLeft ≠ 0 → step s = .next
        { turnTaken s with retryLeft := s.retryLeft - 1, timer := s.retryDelay, seq := .rdelay }))

/-- 43_register_reader.md R160: the step `Retry` goes to `TXEN`, and the request it writes equals the bytes already there,
so that it has no other effect. -/
def Obligations.RetryRestartsAttempt : Prop :=
  ∀ s : State, blocksTurn s → s.seq = .rdelay → s.timer = 0 →
    ∃ buf : Memory, step s = .next { turnTaken s with txbuf := buf, seq := .txen } ∧
      (∀ k, buf.find k = if k < 8 then (encodeRequest s.slaveId s.regAddr)[k]? else s.txbuf.find k) ∧
      (RunInv s → BufferInv s → ∀ k, buf.find k = s.txbuf.find k)

/-- 43_register_reader.md R155 to R165: a whole READ. After failed attempts `fails` (none when `RETRY_COUNT` is 0) the
attempt `last` either succeeds or is the last one allowed; every attempt sends the same request, gets what arrived since
the `RxRead` before it, and lasts its ticks, whatever TIME and LINE do before each step of the block; the answer is the
last attempt's value or error. -/
def Obligations.ReadRunsToCompletion : Prop :=
  ∀ (s : State) (sid : Byte) (addr : Half) (ws : List Word) (fails : List Attempt) (last : Attempt) (rest : List Turn),
    s.seq = .idle → s.hostCmds = mkWord 0x30 sid addr :: ws →
    (∀ a ∈ fails, a.fits s.tSettle s.tResp ∧ a.delayFits s.retryDelay) → last.fits s.tSettle s.tResp →
    s.schedule = .block :: (fails.flatMap Attempt.retried ++ (last.turns ++ rest)) →
    (∀ r ∈ received s.lineRx fails, ∃ e, judge (r.take s.params.rxcap) = .error e) →
    let got := carryAfter s.lineRx fails ++ bytesIn last.send.turns
    let verdict := judge (got.take s.params.rxcap)
    fails.length ≤ s.retryCount.toNat → (∃ v, verdict = .ok v) ∨ fails.length = s.retryCount.toNat →
    ∃ t, run (s.schedule.length - rest.length) s = .next t ∧
      t.seq = .idle ∧ t.de = false ∧ t.hostCmds = ws ∧ t.schedule = rest ∧ t.lineRx = bytesIn last.judge ∧
      t.attempts.toNat = fails.length + 1 ∧ t.slaveId = sid ∧ t.regAddr = addr ∧ t.txvalid = true ∧
      t.lineTx = s.lineTx ++ List.replicate (fails.length + 1) (encodeRequest sid addr) ∧
      t.reception = got.take s.params.rxcap ∧ t.crcacc = s.crcacc ∧
      t.tSettle = s.tSettle ∧ t.tResp = s.tResp ∧ t.retryCount = s.retryCount ∧ t.retryDelay = s.retryDelay ∧
      (∀ v, verdict = .ok v → t.rsp = some (mkWord 0 0 v) ∧ t.value = v ∧ t.ok = true ∧ t.err = 0x00) ∧
      (∀ e, verdict = .error e →
        t.rsp = some (mkWord e.code 0 0) ∧ t.value = s.value ∧ t.ok = false ∧ t.err = e.code)

/-- 70_reset_and_hazards.md R250: from any state with a command running, ticks and turns of the block in alternation
bring the block back to `IDLE`. -/
def Obligations.BusyBlockFinishes : Prop :=
  ∀ s : State, s.seq ≠ .idle → ∃ n, ∀ rest, ∃ k t,
    run k { s with schedule := (List.replicate n [Turn.tick, Turn.block]).flatten ++ rest } = .next t ∧
      t.seq = .idle ∧ t.rsp.isSome = true ∧ k ≤ 2 * n

/-! ### Reset and the asynchronous events -/

/-- 10_state.md R36: the values after reset with the default parameters. -/
def Obligations.ResetValues : Prop :=
  let s := State.reset
  s.tSettle = 10 ∧ s.tResp = 100 ∧ s.retryCount = 0 ∧ s.retryDelay = 0 ∧ s.slaveId = 0 ∧ s.regAddr = 0 ∧ s.value = 0 ∧
  s.err = 0x00 ∧ s.rxlen = 0 ∧ s.attempts = 0 ∧ s.crcacc = 0xFFFF ∧ s.ok = false ∧ s.rxovf = false ∧
  s.txvalid = false ∧ (∀ i, s.txbuf.find i = none ∧ s.rxbuf.find i = none) ∧ s.seq = .idle ∧ s.timer = 0 ∧
  s.retryLeft = 0 ∧ s.cmdop = .xact ∧ s.de = false ∧ s.cmdReady = true ∧ s.busy = false ∧ s.rspValid = false

/-- 70_reset_and_hazards.md R235, R236, R237: `Reset` in any state puts every element of the block at its reset value,
answers nothing and does not touch the transport. -/
def Obligations.ResetEventResets : Prop :=
  ∀ s : State, s.schedule.head? = some .reset → step s = .next
    { tSettle := s.params.tSettleReset, tResp := s.params.tRespReset, retryCount := 0,
      retryDelay := s.params.retryDelayReset, slaveId := 0, regAddr := 0, value := 0, err := 0x00, rxlen := 0,
      attempts := 0, crcacc := 0xFFFF, ok := false, rxovf := false, txvalid := false, txbuf := [], rxbuf := [],
      seq := .idle, timer := 0, retryLeft := 0, cmdop := .xact, de := false, lineTx := s.lineTx, lineRx := s.lineRx,
      rsp := none, history := s.history ++ [.reset], params := s.params, hostCmds := s.hostCmds,
      schedule := s.schedule.tail }

/-- 60_exceptions.md R211: `Tick` only decrements `TIMER`, and only in a wait; `Arrive` only appends to `LINE_RX`. -/
def Obligations.AsyncEventsDoNoMore : Prop :=
  (∀ s : State, s.schedule.head? = some .tick → ∃ n : Half,
    step s = .next { turnTaken s with timer := n, history := s.history ++ [.tick] } ∧
    n.toNat = if s.seq = .settle ∨ s.seq = .rxwait ∨ s.seq = .rdelay then s.timer.toNat - 1 else s.timer.toNat) ∧
  (∀ (s : State) (bytes : List Byte), s.schedule.head? = some (.line bytes) → step s = .next
    { turnTaken s with lineRx := s.lineRx ++ bytes, history := s.history ++ bytes.map .arrive })

/-- 20_memory.md R59, 42_transceiver.md R145, for the two wire frames of 30_encoding.md R83 and R84: a frame that arrives
is its bytes appended to `LINE_RX`, in any state of the block (the model's choice of meaning for the rows, log 5). -/
def Obligations.WireFramesArrive : Prop :=
  (∀ (s : State) (sid : Byte) (addr c : Half), c = crc16 [sid, 0x03, hi addr, lo addr, 0x00, 0x01] →
    let f := [sid, 0x03, hi addr, lo addr, 0x00, 0x01, lo c, hi c]
    exec (.req03 sid addr) s =
      .next { s with lineRx := s.lineRx ++ f, history := s.history ++ f.map .arrive }) ∧
  (∀ (s : State) (sid fc : Byte) (v c : Half), c = crc16 [sid, fc, 0x02, hi v, lo v] →
    let f := [sid, fc, 0x02, hi v, lo v, lo c, hi c]
    exec (.rsp03 sid fc v) s =
      .next { s with lineRx := s.lineRx ++ f, history := s.history ++ f.map .arrive })

/-! ### Invariants and rules of the whole machine -/

/-- The three invariants hold after reset. The clauses of `HistoryInv` on the two queues and the history hold because the
model starts with both queues empty and the history `[Reset]`, which is its own choice and inference (log 10: DESIGN CHOICE
and DEDUCED); 10_state.md R36 gives values for the elements of the block only, and the other clauses rest on it. -/
def Obligations.ResetMeetsInvariants : Prop :=
  RunInv State.reset ∧ BufferInv State.reset ∧ HistoryInv State.reset

/-- Every step keeps the invariant of 10_state.md R35. -/
def Obligations.StepKeepsRunInv : Prop := ∀ s t : State, RunInv s → step s = .next t → RunInv t

/-- Every step keeps the canonical form of the buffers and what they hold (10_state.md R23, R30, R31). -/
def Obligations.StepKeepsBufferInv : Prop := ∀ s t : State, RunInv s → BufferInv s → step s = .next t → BufferInv t

/-- Every step keeps the discipline of the ports and the line (20_memory.md R63, 30_encoding.md R80, R81). -/
def Obligations.StepKeepsHistoryInv : Prop :=
  ∀ s t : State, RunInv s → BufferInv s → HistoryInv s → step s = .next t → HistoryInv t

/-- 10_state.md R35: its items hold in every state that any host, any line, any timing and any resets can reach, for every
legal value of the parameters. -/
def Obligations.RunsKeepR35 : Prop :=
  ∀ (p : Params) (carry : List Byte) (words : List Word) (turns : List Turn) (n : Nat) (t : State),
    run n { State.powerUp p with lineRx := carry, hostCmds := words, schedule := turns } = .next t →
    (t.de = true ↔ t.seq = .write ∨ t.seq = .settle) ∧
    ((t.cmdReady = true ↔ t.seq = .idle) ∧ t.busy = !t.cmdReady) ∧
    t.rxlen.toNat ≤ t.params.rxcap ∧
    (t.seq = .eval ∨ t.seq = .rdelay → t.cmdop = .read) ∧
    (t.seq ≠ .idle → t.txvalid = true) ∧
    (t.cmdop = .read →
      (t.seq ∈ [.write, .settle, .rxwait, .eval] → t.attempts.toNat + t.retryLeft.toNat = t.retryCount.toNat + 1) ∧
      (t.seq ∈ [.txen, .rdelay] → t.attempts.toNat + t.retryLeft.toNat = t.retryCount.toNat)) ∧
    t.seq ∈ [.idle, .txen, .write, .settle, .rxwait, .eval, .rdelay]

/-- 60_exceptions.md R215: no command and no step ever stops the block. -/
def Obligations.NothingStopsTheBlock : Prop :=
  (∀ (i : Instr) (s : State), ∃ t, exec i s = .next t) ∧ (∀ s : State, ∃ t, step s = .next t)

/-- 60_exceptions.md R206: which command can answer which status. -/
def Obligations.StatusesOfCommands : Prop :=
  (∀ (i : Instr) (s t : State) (w : Word), s.rsp = none → exec i s = .next t → t.rsp = some w →
    opField w ∈ (match i with
      | .nop | .crcinit | .crcbyte _ | .enc _ _ => [0x00]
      | .set _ _ => [0x00, 0xE0]
      | .get _ _ => [0x00, 0xE0, 0xE2]
      | .xact => [0xE1]
      | .dec => [0x00, 0x01, 0x02, 0x03]
      | .read _ _ | .req03 _ _ | .rsp03 _ _ _ => [] : List Byte)) ∧
  (∀ (s t : State) (w : Word), s.seq ≠ .idle → step s = .next t → t.rsp = some w →
    opField w ∈ (match s.seq with
      | .rxwait => [0x00]
      | .eval => [0x00, 0x10, 0x11, 0x12, 0x13]
      | .idle | .txen | .write | .settle | .rdelay => [] : List Byte)) ∧
  (∀ (s t : State) (w : Word), s.seq = .rxwait → step s = .next t → t.rsp = some w → s.cmdop = .xact)

/-- 40_crc16.md R107: `CRCACC` is written by CRCINIT, CRCBYTE and reset, and by nothing else. -/
def Obligations.CrcaccOnlyByCrcCommands : Prop :=
  ∀ s t : State, step s = .next t → t.crcacc ≠ s.crcacc →
    s.schedule.head? = some .reset ∨ fetched s = some .crcinit ∨ ∃ a, fetched s = some (.crcbyte a)

/-- 10_state.md R24: a configuration register is written with SET and, but for reset, by nothing else. -/
def Obligations.ConfigOnlyBySet : Prop :=
  ∀ s t : State, step s = .next t → s.schedule.head? ≠ some .reset →
    (t.tSettle ≠ s.tSettle → ∃ imm, fetched s = some (.set 0x00 imm) ∧ t.tSettle = imm) ∧
    (t.tResp ≠ s.tResp → ∃ imm, fetched s = some (.set 0x01 imm) ∧ t.tResp = imm) ∧
    (t.retryCount ≠ s.retryCount → ∃ imm, fetched s = some (.set 0x02 imm) ∧ t.retryCount.toNat = imm.toNat) ∧
    (t.retryDelay ≠ s.retryDelay → ∃ imm, fetched s = some (.set 0x03 imm) ∧ t.retryDelay = imm) ∧
    t.params = s.params

/-- 10_state.md R23: no command other than those listed changes a flag. -/
def Obligations.FlagsChangeOnlyAsListed : Prop :=
  ∀ s t : State, step s = .next t → s.schedule.head? ≠ some .reset →
    (t.ok ≠ s.ok → t.ok = false ∧ (∃ a imm, fetched s = some (.read a imm)) ∨ fetched s = some .dec ∨
      (t.ok = true ∧ s.seq = .eval ∧ t.seq = .idle)) ∧
    (t.rxovf ≠ s.rxovf → s.seq = .rxwait ∧ t.rxovf = decide (s.params.rxcap < s.lineRx.length)) ∧
    (t.txvalid ≠ s.txvalid → t.txvalid = true ∧
      ((∃ a imm, fetched s = some (.enc a imm)) ∨ ∃ a imm, fetched s = some (.read a imm)))

/-- 10_state.md R21, R22, 40_crc16.md R107: each of the seven operand and result registers is written only as a side
effect of the commands listed, to the value listed. -/
def Obligations.ResultRegistersWrittenOnlyAsListed : Prop :=
  ∀ s t : State, step s = .next t → s.schedule.head? ≠ some .reset →
    (t.slaveId ≠ s.slaveId ∨ t.regAddr ≠ s.regAddr → ∃ a imm,
      (fetched s = some (.enc a imm) ∨ fetched s = some (.read a imm)) ∧ t.slaveId = a ∧ t.regAddr = imm) ∧
    (t.value ≠ s.value → t.ok = true ∧ t.value = join (s.rxByte 3) (s.rxByte 4) ∧
      (fetched s = some .dec ∨ s.seq = .eval)) ∧
    (t.err ≠ s.err → ∃ w, t.rsp = some w ∧ t.err = opField w ∧
      (fetched s = some .dec ∨ fetched s = some .xact ∨ (s.seq = .rxwait ∧ s.cmdop = .xact) ∨ s.seq = .eval)) ∧
    (t.rxlen ≠ s.rxlen → s.seq = .rxwait ∧ t.rxlen.toNat = min s.lineRx.length s.params.rxcap) ∧
    (t.attempts ≠ s.attempts → (t.attempts = 0 ∧ ∃ a imm, fetched s = some (.read a imm)) ∨
      (s.seq = .txen ∧ s.cmdop = .read ∧ t.attempts = s.attempts + 1)) ∧
    (t.crcacc ≠ s.crcacc → (fetched s = some .crcinit ∧ t.crcacc = 0xFFFF) ∨
      ∃ a, fetched s = some (.crcbyte a) ∧ t.crcacc = crcStep s.crcacc a)

/-- 42_transceiver.md R143, 20_memory.md R58, R67: the sequencer alone drives `de` and the line; nothing but `RxRead` takes
bytes from `LINE_RX`. -/
def Obligations.LineOwnedBySequencer : Prop :=
  ∀ s t : State, step s = .next t →
    (t.de ≠ s.de → s.schedule.head? = some .reset ∨ (blocksTurn s ∧ s.seq = .txen ∧ t.de = true) ∨
      (blocksTurn s ∧ s.seq = .settle ∧ s.timer = 0 ∧ t.de = false)) ∧
    (t.lineTx ≠ s.lineTx → blocksTurn s ∧ s.seq = .write ∧ t.lineTx = s.lineTx ++ [s.request]) ∧
    (t.lineRx ≠ s.lineRx →
      (∃ bytes, s.schedule.head? = some (.line bytes) ∧ t.lineRx = s.lineRx ++ bytes) ∨
      (blocksTurn s ∧ s.seq = .rxwait ∧ s.timer = 0 ∧ t.lineRx = []))

/-! ### Frames -/

/-- What the commands that store no buffer byte leave alone: NOP, SET, GET, CRCINIT, CRCBYTE, XACT and DEC (40_crc16.md
R105, R106, 41_frame_codec.md R123, 42_transceiver.md R135, 44_system_commands.md R175 to R178). That `RETRY_LEFT` and,
but for XACT, `CMDOP` are kept is the model's choice (log 9: 10_state.md R34 leaves both open in `IDLE`). -/
def Obligations.RegisterCommandsFrame : Prop :=
  ∀ (i : Instr) (s t : State),
    (i = .nop ∨ (∃ a imm, i = .set a imm) ∨ (∃ a imm, i = .get a imm) ∨ i = .crcinit ∨ (∃ a, i = .crcbyte a) ∨
      i = .xact ∨ i = .dec) →
    exec i s = .next t →
    (∀ a, t.txbuf.find a = s.txbuf.find a ∧ t.rxbuf.find a = s.rxbuf.find a) ∧
    t.slaveId = s.slaveId ∧ t.regAddr = s.regAddr ∧ t.rxlen = s.rxlen ∧ t.attempts = s.attempts ∧
    t.rxovf = s.rxovf ∧ t.txvalid = s.txvalid ∧ t.timer = s.timer ∧ t.retryLeft = s.retryLeft ∧ t.de = s.de ∧
    t.lineTx = s.lineTx ∧ t.lineRx = s.lineRx ∧ t.params = s.params ∧ t.hostCmds = s.hostCmds ∧
    t.schedule = s.schedule ∧
    ((∀ a imm, i ≠ .set a imm) → t.tSettle = s.tSettle ∧ t.tResp = s.tResp ∧ t.retryCount = s.retryCount ∧
      t.retryDelay = s.retryDelay) ∧
    (i ≠ .crcinit → (∀ a, i ≠ .crcbyte a) → t.crcacc = s.crcacc) ∧
    (i ≠ .dec → t.value = s.value ∧ t.ok = s.ok) ∧
    (i ≠ .dec → i ≠ .xact → t.err = s.err) ∧
    (i ≠ .xact → t.cmdop = s.cmdop)

/-- What the commands that store a request leave alone: ENC and READ write the bytes of `TXBUF` that the request covers
from index 0 and no others, and no byte of `RXBUF` (41_frame_codec.md R118, 43_register_reader.md R156). That ENC keeps
`RETRY_LEFT` and `CMDOP` is the model's choice (log 9: 10_state.md R34 leaves both open in `IDLE`). -/
def Obligations.RequestCommandsFrame : Prop :=
  ∀ (i : Instr) (sid : Byte) (addr : Half) (s t : State), i = .enc sid addr ∨ i = .read sid addr →
    exec i s = .next t →
    (∀ a, 0 + (encodeRequest sid addr).length ≤ a → t.txbuf.find a = s.txbuf.find a) ∧
    (∀ a, t.rxbuf.find a = s.rxbuf.find a) ∧
    t.tSettle = s.tSettle ∧ t.tResp = s.tResp ∧ t.retryCount = s.retryCount ∧ t.retryDelay = s.retryDelay ∧
    t.value = s.value ∧ t.err = s.err ∧ t.rxlen = s.rxlen ∧ t.crcacc = s.crcacc ∧ t.rxovf = s.rxovf ∧
    t.timer = s.timer ∧ t.de = s.de ∧ t.lineTx = s.lineTx ∧ t.lineRx = s.lineRx ∧ t.params = s.params ∧
    t.hostCmds = s.hostCmds ∧ t.schedule = s.schedule ∧
    (i = .enc sid addr → t.ok = s.ok ∧ t.attempts = s.attempts ∧ t.retryLeft = s.retryLeft ∧ t.cmdop = s.cmdop ∧
      t.seq = s.seq)

/-! ### The reference host -/

/-- 45_host_poll_cycle.md R195, R196, 70_reset_and_hazards.md R236: with distinct addresses, of which the first ones were
read so far, the Snapshot holds exactly the addresses whose READ was answered `OK`, in order, each with the answer's data;
a READ that `Reset` cancelled leaves its address out and no other. The host is outside the block (log 16). -/
def Obligations.SnapshotHoldsSuccessfulReads : Prop :=
  ∀ (sid : Byte) (xs : List Exchange) (later : List Half), (xs.map Exchange.addr ++ later).Nodup → (∀ x ∈ xs, x.fits) →
    snapshotOf sid (xs.map Exchange.addr ++ later) (xs.flatMap (Exchange.events sid)) =
      xs.filterMap (fun x => x.answer.bind fun w => if opField w = 0x00 then some (x.addr, immField w) else none)

/-- 45_host_poll_cycle.md R196, R200: whatever the host sends and whatever happens in a cycle, the Snapshot has no address
twice, keeps the order of the list, and contains an address of the list exactly when a READ of it was answered `OK`, with
the value of such an answer (of which one, where there are several: log 17). -/
def Obligations.SnapshotOnlySuccessfullyRead : Prop :=
  ∀ (sid : Byte) (addrs : List Half) (cycle : List Event),
    ((snapshotOf sid addrs cycle).map Prod.fst).Nodup ∧
    (addrs.Nodup → ((snapshotOf sid addrs cycle).map Prod.fst).Sublist addrs) ∧
    (∀ p ∈ snapshotOf sid addrs cycle, p.1 ∈ addrs ∧ answeredOk sid p.1 p.2 cycle) ∧
    (∀ a ∈ addrs, (∃ v, answeredOk sid a v cycle) → ∃ v, (a, v) ∈ snapshotOf sid addrs cycle)
end

