-- ==== Sys2Proof/Laws/Frame.lean ====
section
/-! SUPPORT. Small lemmas about bit fields, byte order, frames and status bytes. -/

namespace Sys2Proof.Machine

@[simp] theorem opField_mkWord (op a : Byte) (imm : Half) : opField (mkWord op a imm) = op := by
  apply BitVec.eq_of_getLsbD_eq
  intro i hi
  simp only [opField, mkWord, BitVec.getLsbD_extractLsb', BitVec.getLsbD_append, hi, decide_true, Bool.true_and]
  rw [if_neg (by omega), if_neg (by omega)]
  congr 1
  omega

@[simp] theorem aField_mkWord (op a : Byte) (imm : Half) : aField (mkWord op a imm) = a := by
  apply BitVec.eq_of_getLsbD_eq
  intro i hi
  simp only [aField, mkWord, BitVec.getLsbD_extractLsb', BitVec.getLsbD_append, hi, decide_true, Bool.true_and]
  rw [if_neg (by omega), if_pos (by omega)]
  congr 1
  omega

@[simp] theorem immField_mkWord (op a : Byte) (imm : Half) : immField (mkWord op a imm) = imm := by
  apply BitVec.eq_of_getLsbD_eq
  intro i hi
  simp only [immField, mkWord, BitVec.getLsbD_extractLsb', BitVec.getLsbD_append, hi, decide_true, Bool.true_and]
  rw [if_pos (by omega)]
  simp

/-- A command word is its three fields (30_encoding.md R75). -/
theorem mkWord_fields (w : Word) : mkWord (opField w) (aField w) (immField w) = w := by
  apply BitVec.eq_of_getLsbD_eq
  intro i hi
  simp only [mkWord, opField, aField, immField, BitVec.getLsbD_append, BitVec.getLsbD_extractLsb']
  split
  · simp [*]
  · split
    · rw [decide_eq_true (by omega), Bool.true_and]; congr 1; omega
    · rw [decide_eq_true (by omega), Bool.true_and]; congr 1; omega

@[simp] theorem lo_join (h l : Byte) : lo (join h l) = l := by
  apply BitVec.eq_of_getLsbD_eq
  intro i hi
  simp only [lo, join, BitVec.getLsbD_extractLsb', BitVec.getLsbD_append, hi, decide_true, Bool.true_and]
  rw [if_pos (by omega)]
  simp

@[simp] theorem hi_join (h l : Byte) : hi (join h l) = h := by
  apply BitVec.eq_of_getLsbD_eq
  intro i hi
  simp only [Machine.hi, join, BitVec.getLsbD_extractLsb', BitVec.getLsbD_append, hi, decide_true, Bool.true_and]
  rw [if_neg (by omega)]
  congr 1
  omega

@[simp] theorem join_hi_lo (f : Half) : join (hi f) (lo f) = f := by
  apply BitVec.eq_of_getLsbD_eq
  intro i h
  simp only [join, Machine.hi, lo, BitVec.getLsbD_append, BitVec.getLsbD_extractLsb']
  split
  · simp [*]
  · rw [decide_eq_true (by omega), Bool.true_and]; congr 1; omega

@[simp] theorem length_crcBytes (c : Half) : (crcBytes c).length = 2 := rfl

@[simp] theorem length_crcAppend (s : List Byte) : (crcAppend s).length = s.length + 2 := by simp [crcAppend]

@[simp] theorem length_encodeRequest (sid : Byte) (addr : Half) : (encodeRequest sid addr).length = 8 := rfl

@[simp] theorem length_encodeResponse (sid fc : Byte) (v : Half) : (encodeResponse sid fc v).length = 7 := rfl

@[simp] theorem opField_responseWord (st : Status) (d : Half) : opField (responseWord st d) = st.code :=
  opField_mkWord _ _ _

@[simp] theorem aField_responseWord (st : Status) (d : Half) : aField (responseWord st d) = 0 := aField_mkWord _ _ _

@[simp] theorem immField_responseWord (st : Status) (d : Half) : immField (responseWord st d) = d :=
  immField_mkWord _ _ _

/-- An opcode's row is found by its code. -/
@[simp] theorem ofCode_code (o : Opcode) : Opcode.ofCode o.code = some o := by cases o <;> decide

/-- A register's row is found by its index. -/
@[simp] theorem ofIndex_index (r : Reg) : Reg.ofIndex r.index = some r := by cases r <;> decide

/-- Only a row's own code names it. -/
theorem code_of_ofCode {b : Byte} {o : Opcode} (h : Opcode.ofCode b = some o) : b = o.code := by
  have := List.find?_some h
  simpa using (beq_iff_eq.mp this).symm

/-- Only a register's own index names it. -/
theorem index_of_ofIndex {b : Byte} {r : Reg} (h : Reg.ofIndex b = some r) : b = r.index := by
  have := List.find?_some h
  simpa using (beq_iff_eq.mp this).symm

end Sys2Proof.Machine
end

