-- ==== Sys2Proof/Laws/Memory.lean ====
section
/-! SUPPORT. The laws of a frame buffer: reading after writing, and the canonical form kept. -/

namespace Sys2Proof.Machine

@[simp] theorem Memory.find_nil (a : Nat) : Memory.find [] a = none := rfl

@[simp] theorem Memory.writeBytes_nil (m : Memory) (a : Nat) : m.writeBytes a [] = m := rfl

@[simp] theorem Memory.writeBytes_cons (m : Memory) (a : Nat) (b : Byte) (bs : List Byte) :
    m.writeBytes a (b :: bs) = (m.write a b).writeBytes (a + 1) bs := rfl

/-- Reading one byte after writing one byte. -/
theorem Memory.find_write (m : Memory) (a : Nat) (b : Byte) (k : Nat) :
    (m.write a b).find k = if a = k then some b else m.find k := by
  induction m with
  | nil => simp [Memory.write, Memory.find]
  | cons c m ih =>
    obtain ⟨k', c⟩ := c
    simp only [Memory.write]
    split
    · simp [Memory.find]
    · split
      · subst k'
        simp only [Memory.find]
        split <;> simp_all
      · simp only [Memory.find, ih]
        split
        · subst k
          simp_all
        · rfl

/-- Reading one byte after writing a sequence. -/
theorem Memory.find_writeBytes (bs : List Byte) (m : Memory) (a k : Nat) :
    (m.writeBytes a bs).find k = if a ≤ k ∧ k < a + bs.length then bs[k - a]? else m.find k := by
  induction bs generalizing m a with
  | nil => simp
  | cons b bs ih =>
    rw [Memory.writeBytes_cons, ih, Memory.find_write]
    rcases Nat.lt_trichotomy k a with h | h | h
    · rw [if_neg (by omega), if_neg (by omega), if_neg (by simp; omega)]
    · subst h
      rw [if_neg (by omega), if_pos rfl, if_pos (by simp)]
      simp
    · have e : k - a = (k - (a + 1)) + 1 := by omega
      by_cases h2 : k < a + 1 + bs.length
      · rw [if_pos ⟨by omega, h2⟩, if_pos ⟨by omega, by simp; omega⟩, e, List.getElem?_cons_succ]
      · rw [if_neg (by omega), if_neg (by omega), if_neg (by simp; omega)]

/-- A byte outside the written range is found as before. -/
theorem Memory.find_writeBytes_outside (bs : List Byte) (m : Memory) (a k : Nat)
    (h : k < a ∨ a + bs.length ≤ k) : (m.writeBytes a bs).find k = m.find k := by
  rw [Memory.find_writeBytes, if_neg (by omega)]

/-- The first address of a written buffer is the written one or the old one. -/
theorem Memory.write_head (m : Memory) (a : Nat) (b : Byte) :
    ∃ k c r, m.write a b = (k, c) :: r ∧ (k = a ∨ ∃ c' r', m = (k, c') :: r') := by
  cases m with
  | nil => exact ⟨a, b, [], rfl, .inl rfl⟩
  | cons h m =>
    obtain ⟨k, c⟩ := h
    simp only [Memory.write]
    split
    · exact ⟨_, _, _, rfl, .inl rfl⟩
    · split
      · exact ⟨_, _, _, rfl, .inl rfl⟩
      · exact ⟨_, _, _, rfl, .inr ⟨_, _, rfl⟩⟩

/-- A write keeps the canonical form. -/
theorem Memory.wf_write (m : Memory) (a : Nat) (b : Byte) (h : m.wf = true) : (m.write a b).wf = true := by
  induction m with
  | nil => rfl
  | cons hd m ih =>
    obtain ⟨k, c⟩ := hd
    simp only [Memory.write]
    split
    · next hlt => simp only [Memory.wf, Bool.and_eq_true, decide_eq_true_eq]; exact ⟨hlt, h⟩
    · split
      · next heq =>
        subst heq
        cases m with
        | nil => rfl
        | cons hd' m' => simpa only [Memory.wf] using h
      · next hge hne =>
        have hm : Memory.wf m = true := by
          cases m with
          | nil => rfl
          | cons hd' m' =>
            simp only [Memory.wf, Bool.and_eq_true] at h
            exact h.2
        obtain ⟨k', c', r, e, hk⟩ := Memory.write_head m a b
        have ih' := ih hm
        rw [e] at ih' ⊢
        simp only [Memory.wf, Bool.and_eq_true, decide_eq_true_eq]
        refine ⟨?_, ih'⟩
        rcases hk with hk | ⟨c2, r2, hk⟩
        · omega
        · subst hk
          simp only [Memory.wf, Bool.and_eq_true, decide_eq_true_eq] at h
          exact h.1

/-- Writing a sequence keeps the canonical form. -/
theorem Memory.wf_writeBytes (bs : List Byte) (m : Memory) (a : Nat) (h : m.wf = true) :
    (m.writeBytes a bs).wf = true := by
  induction bs generalizing m a with
  | nil => exact h
  | cons b bs ih => exact ih _ _ (Memory.wf_write m a b h)

/-- A byte that holds a value reads as that value: no free value is involved. -/
theorem Memory.readByte_of_find (buf : Config.Buffer) (m : Memory) (a : Nat) (b : Byte) (h : m.find a = some b) :
    m.readByte buf a = b := by
  simp [Memory.readByte, h]

/-- Reading back a sequence just written. -/
theorem Memory.readBytes_writeBytes (buf : Config.Buffer) (m : Memory) (a : Nat) (bs : List Byte) :
    (m.writeBytes a bs).readBytes buf a bs.length = bs := by
  apply List.ext_getElem
  · simp [Memory.readBytes]
  · intro k h1 h2
    simp only [Memory.readBytes, List.getElem_map, List.getElem_range]
    apply Memory.readByte_of_find
    rw [Memory.find_writeBytes, if_pos ⟨by omega, by omega⟩]
    simp [h2]

/-- `MemRead` of `n` bytes gives `n` bytes. -/
@[simp] theorem Memory.length_readBytes (buf : Config.Buffer) (m : Memory) (a n : Nat) :
    (m.readBytes buf a n).length = n := by
  simp [Memory.readBytes]

end Sys2Proof.Machine
end

