-- ==== Sys2Proof/Laws/State.lean ====
section
/-! SUPPORT. One lemma per field per update of the state, each true by rfl, so that no proof unfolds a record update. -/

namespace Sys2Proof.Machine.State

/-! ### `emit` -/

@[simp] theorem emit_tSettle (e : Event) (s : State) : (s.emit e).tSettle = s.tSettle := rfl
@[simp] theorem emit_tResp (e : Event) (s : State) : (s.emit e).tResp = s.tResp := rfl
@[simp] theorem emit_retryCount (e : Event) (s : State) : (s.emit e).retryCount = s.retryCount := rfl
@[simp] theorem emit_retryDelay (e : Event) (s : State) : (s.emit e).retryDelay = s.retryDelay := rfl
@[simp] theorem emit_slaveId (e : Event) (s : State) : (s.emit e).slaveId = s.slaveId := rfl
@[simp] theorem emit_regAddr (e : Event) (s : State) : (s.emit e).regAddr = s.regAddr := rfl
@[simp] theorem emit_value (e : Event) (s : State) : (s.emit e).value = s.value := rfl
@[simp] theorem emit_err (e : Event) (s : State) : (s.emit e).err = s.err := rfl
@[simp] theorem emit_rxlen (e : Event) (s : State) : (s.emit e).rxlen = s.rxlen := rfl
@[simp] theorem emit_attempts (e : Event) (s : State) : (s.emit e).attempts = s.attempts := rfl
@[simp] theorem emit_crcacc (e : Event) (s : State) : (s.emit e).crcacc = s.crcacc := rfl
@[simp] theorem emit_ok (e : Event) (s : State) : (s.emit e).ok = s.ok := rfl
@[simp] theorem emit_rxovf (e : Event) (s : State) : (s.emit e).rxovf = s.rxovf := rfl
@[simp] theorem emit_txvalid (e : Event) (s : State) : (s.emit e).txvalid = s.txvalid := rfl
@[simp] theorem emit_txbuf (e : Event) (s : State) : (s.emit e).txbuf = s.txbuf := rfl
@[simp] theorem emit_rxbuf (e : Event) (s : State) : (s.emit e).rxbuf = s.rxbuf := rfl
@[simp] theorem emit_seq (e : Event) (s : State) : (s.emit e).seq = s.seq := rfl
@[simp] theorem emit_timer (e : Event) (s : State) : (s.emit e).timer = s.timer := rfl
@[simp] theorem emit_retryLeft (e : Event) (s : State) : (s.emit e).retryLeft = s.retryLeft := rfl
@[simp] theorem emit_cmdop (e : Event) (s : State) : (s.emit e).cmdop = s.cmdop := rfl
@[simp] theorem emit_de (e : Event) (s : State) : (s.emit e).de = s.de := rfl
@[simp] theorem emit_lineTx (e : Event) (s : State) : (s.emit e).lineTx = s.lineTx := rfl
@[simp] theorem emit_lineRx (e : Event) (s : State) : (s.emit e).lineRx = s.lineRx := rfl
@[simp] theorem emit_rsp (e : Event) (s : State) : (s.emit e).rsp = s.rsp := rfl
@[simp] theorem emit_history (e : Event) (s : State) : (s.emit e).history = s.history ++ [e] := rfl
@[simp] theorem emit_params (e : Event) (s : State) : (s.emit e).params = s.params := rfl
@[simp] theorem emit_hostCmds (e : Event) (s : State) : (s.emit e).hostCmds = s.hostCmds := rfl
@[simp] theorem emit_schedule (e : Event) (s : State) : (s.emit e).schedule = s.schedule := rfl

/-! ### `respond` -/

@[simp] theorem respond_tSettle (st : Status) (d : Half) (s : State) : (s.respond st d).tSettle = s.tSettle := rfl
@[simp] theorem respond_tResp (st : Status) (d : Half) (s : State) : (s.respond st d).tResp = s.tResp := rfl
@[simp] theorem respond_retryCount (st : Status) (d : Half) (s : State) :
    (s.respond st d).retryCount = s.retryCount := rfl
@[simp] theorem respond_retryDelay (st : Status) (d : Half) (s : State) :
    (s.respond st d).retryDelay = s.retryDelay := rfl
@[simp] theorem respond_slaveId (st : Status) (d : Half) (s : State) : (s.respond st d).slaveId = s.slaveId := rfl
@[simp] theorem respond_regAddr (st : Status) (d : Half) (s : State) : (s.respond st d).regAddr = s.regAddr := rfl
@[simp] theorem respond_value (st : Status) (d : Half) (s : State) : (s.respond st d).value = s.value := rfl
@[simp] theorem respond_err (st : Status) (d : Half) (s : State) : (s.respond st d).err = s.err := rfl
@[simp] theorem respond_rxlen (st : Status) (d : Half) (s : State) : (s.respond st d).rxlen = s.rxlen := rfl
@[simp] theorem respond_attempts (st : Status) (d : Half) (s : State) : (s.respond st d).attempts = s.attempts := rfl
@[simp] theorem respond_crcacc (st : Status) (d : Half) (s : State) : (s.respond st d).crcacc = s.crcacc := rfl
@[simp] theorem respond_ok (st : Status) (d : Half) (s : State) : (s.respond st d).ok = s.ok := rfl
@[simp] theorem respond_rxovf (st : Status) (d : Half) (s : State) : (s.respond st d).rxovf = s.rxovf := rfl
@[simp] theorem respond_txvalid (st : Status) (d : Half) (s : State) : (s.respond st d).txvalid = s.txvalid := rfl
@[simp] theorem respond_txbuf (st : Status) (d : Half) (s : State) : (s.respond st d).txbuf = s.txbuf := rfl
@[simp] theorem respond_rxbuf (st : Status) (d : Half) (s : State) : (s.respond st d).rxbuf = s.rxbuf := rfl
@[simp] theorem respond_seq (st : Status) (d : Half) (s : State) : (s.respond st d).seq = s.seq := rfl
@[simp] theorem respond_timer (st : Status) (d : Half) (s : State) : (s.respond st d).timer = s.timer := rfl
@[simp] theorem respond_retryLeft (st : Status) (d : Half) (s : State) :
    (s.respond st d).retryLeft = s.retryLeft := rfl
@[simp] theorem respond_cmdop (st : Status) (d : Half) (s : State) : (s.respond st d).cmdop = s.cmdop := rfl
@[simp] theorem respond_de (st : Status) (d : Half) (s : State) : (s.respond st d).de = s.de := rfl
@[simp] theorem respond_lineTx (st : Status) (d : Half) (s : State) : (s.respond st d).lineTx = s.lineTx := rfl
@[simp] theorem respond_lineRx (st : Status) (d : Half) (s : State) : (s.respond st d).lineRx = s.lineRx := rfl
@[simp] theorem respond_rsp (st : Status) (d : Half) (s : State) :
    (s.respond st d).rsp = some (responseWord st d) := rfl
@[simp] theorem respond_history (st : Status) (d : Half) (s : State) :
    (s.respond st d).history = s.history ++ [.resp (responseWord st d)] := rfl
@[simp] theorem respond_params (st : Status) (d : Half) (s : State) : (s.respond st d).params = s.params := rfl
@[simp] theorem respond_hostCmds (st : Status) (d : Half) (s : State) : (s.respond st d).hostCmds = s.hostCmds := rfl
@[simp] theorem respond_schedule (st : Status) (d : Half) (s : State) : (s.respond st d).schedule = s.schedule := rfl

/-! ### `raise` -/

@[simp] theorem raise_tSettle (st : Status) (s : State) : (s.raise st).tSettle = s.tSettle := rfl
@[simp] theorem raise_tResp (st : Status) (s : State) : (s.raise st).tResp = s.tResp := rfl
@[simp] theorem raise_retryCount (st : Status) (s : State) : (s.raise st).retryCount = s.retryCount := rfl
@[simp] theorem raise_retryDelay (st : Status) (s : State) : (s.raise st).retryDelay = s.retryDelay := rfl
@[simp] theorem raise_slaveId (st : Status) (s : State) : (s.raise st).slaveId = s.slaveId := rfl
@[simp] theorem raise_regAddr (st : Status) (s : State) : (s.raise st).regAddr = s.regAddr := rfl
@[simp] theorem raise_value (st : Status) (s : State) : (s.raise st).value = s.value := rfl
@[simp] theorem raise_err (st : Status) (s : State) :
    (s.raise st).err = if st.writesErr then st.code else s.err := rfl
@[simp] theorem raise_rxlen (st : Status) (s : State) : (s.raise st).rxlen = s.rxlen := rfl
@[simp] theorem raise_attempts (st : Status) (s : State) : (s.raise st).attempts = s.attempts := rfl
@[simp] theorem raise_crcacc (st : Status) (s : State) : (s.raise st).crcacc = s.crcacc := rfl
@[simp] theorem raise_ok (st : Status) (s : State) : (s.raise st).ok = s.ok := rfl
@[simp] theorem raise_rxovf (st : Status) (s : State) : (s.raise st).rxovf = s.rxovf := rfl
@[simp] theorem raise_txvalid (st : Status) (s : State) : (s.raise st).txvalid = s.txvalid := rfl
@[simp] theorem raise_txbuf (st : Status) (s : State) : (s.raise st).txbuf = s.txbuf := rfl
@[simp] theorem raise_rxbuf (st : Status) (s : State) : (s.raise st).rxbuf = s.rxbuf := rfl
@[simp] theorem raise_seq (st : Status) (s : State) : (s.raise st).seq = .idle := rfl
@[simp] theorem raise_timer (st : Status) (s : State) : (s.raise st).timer = s.timer := rfl
@[simp] theorem raise_retryLeft (st : Status) (s : State) : (s.raise st).retryLeft = s.retryLeft := rfl
@[simp] theorem raise_cmdop (st : Status) (s : State) : (s.raise st).cmdop = s.cmdop := rfl
@[simp] theorem raise_de (st : Status) (s : State) : (s.raise st).de = s.de := rfl
@[simp] theorem raise_lineTx (st : Status) (s : State) : (s.raise st).lineTx = s.lineTx := rfl
@[simp] theorem raise_lineRx (st : Status) (s : State) : (s.raise st).lineRx = s.lineRx := rfl
@[simp] theorem raise_rsp (st : Status) (s : State) : (s.raise st).rsp = some (responseWord st 0) := rfl
@[simp] theorem raise_history (st : Status) (s : State) :
    (s.raise st).history = s.history ++ [.resp (responseWord st 0)] := rfl
@[simp] theorem raise_params (st : Status) (s : State) : (s.raise st).params = s.params := rfl
@[simp] theorem raise_hostCmds (st : Status) (s : State) : (s.raise st).hostCmds = s.hostCmds := rfl
@[simp] theorem raise_schedule (st : Status) (s : State) : (s.raise st).schedule = s.schedule := rfl

/-! ### `complete` -/

@[simp] theorem complete_tSettle (d : Half) (s : State) : (s.complete d).tSettle = s.tSettle := rfl
@[simp] theorem complete_tResp (d : Half) (s : State) : (s.complete d).tResp = s.tResp := rfl
@[simp] theorem complete_retryCount (d : Half) (s : State) : (s.complete d).retryCount = s.retryCount := rfl
@[simp] theorem complete_retryDelay (d : Half) (s : State) : (s.complete d).retryDelay = s.retryDelay := rfl
@[simp] theorem complete_slaveId (d : Half) (s : State) : (s.complete d).slaveId = s.slaveId := rfl
@[simp] theorem complete_regAddr (d : Half) (s : State) : (s.complete d).regAddr = s.regAddr := rfl
@[simp] theorem complete_value (d : Half) (s : State) : (s.complete d).value = s.value := rfl
@[simp] theorem complete_err (d : Half) (s : State) : (s.complete d).err = 0x00 := rfl
@[simp] theorem complete_rxlen (d : Half) (s : State) : (s.complete d).rxlen = s.rxlen := rfl
@[simp] theorem complete_attempts (d : Half) (s : State) : (s.complete d).attempts = s.attempts := rfl
@[simp] theorem complete_crcacc (d : Half) (s : State) : (s.complete d).crcacc = s.crcacc := rfl
@[simp] theorem complete_ok (d : Half) (s : State) : (s.complete d).ok = s.ok := rfl
@[simp] theorem complete_rxovf (d : Half) (s : State) : (s.complete d).rxovf = s.rxovf := rfl
@[simp] theorem complete_txvalid (d : Half) (s : State) : (s.complete d).txvalid = s.txvalid := rfl
@[simp] theorem complete_txbuf (d : Half) (s : State) : (s.complete d).txbuf = s.txbuf := rfl
@[simp] theorem complete_rxbuf (d : Half) (s : State) : (s.complete d).rxbuf = s.rxbuf := rfl
@[simp] theorem complete_seq (d : Half) (s : State) : (s.complete d).seq = .idle := rfl
@[simp] theorem complete_timer (d : Half) (s : State) : (s.complete d).timer = s.timer := rfl
@[simp] theorem complete_retryLeft (d : Half) (s : State) : (s.complete d).retryLeft = s.retryLeft := rfl
@[simp] theorem complete_cmdop (d : Half) (s : State) : (s.complete d).cmdop = s.cmdop := rfl
@[simp] theorem complete_de (d : Half) (s : State) : (s.complete d).de = s.de := rfl
@[simp] theorem complete_lineTx (d : Half) (s : State) : (s.complete d).lineTx = s.lineTx := rfl
@[simp] theorem complete_lineRx (d : Half) (s : State) : (s.complete d).lineRx = s.lineRx := rfl
@[simp] theorem complete_rsp (d : Half) (s : State) : (s.complete d).rsp = some (responseWord .ok d) := rfl
@[simp] theorem complete_history (d : Half) (s : State) :
    (s.complete d).history = s.history ++ [.resp (responseWord .ok d)] := rfl
@[simp] theorem complete_params (d : Half) (s : State) : (s.complete d).params = s.params := rfl
@[simp] theorem complete_hostCmds (d : Half) (s : State) : (s.complete d).hostCmds = s.hostCmds := rfl
@[simp] theorem complete_schedule (d : Half) (s : State) : (s.complete d).schedule = s.schedule := rfl

/-! ### `deliver` -/

@[simp] theorem deliver_tSettle (v : Half) (s : State) : (s.deliver v).tSettle = s.tSettle := rfl
@[simp] theorem deliver_tResp (v : Half) (s : State) : (s.deliver v).tResp = s.tResp := rfl
@[simp] theorem deliver_retryCount (v : Half) (s : State) : (s.deliver v).retryCount = s.retryCount := rfl
@[simp] theorem deliver_retryDelay (v : Half) (s : State) : (s.deliver v).retryDelay = s.retryDelay := rfl
@[simp] theorem deliver_slaveId (v : Half) (s : State) : (s.deliver v).slaveId = s.slaveId := rfl
@[simp] theorem deliver_regAddr (v : Half) (s : State) : (s.deliver v).regAddr = s.regAddr := rfl
@[simp] theorem deliver_value (v : Half) (s : State) : (s.deliver v).value = v := rfl
@[simp] theorem deliver_err (v : Half) (s : State) : (s.deliver v).err = 0x00 := rfl
@[simp] theorem deliver_rxlen (v : Half) (s : State) : (s.deliver v).rxlen = s.rxlen := rfl
@[simp] theorem deliver_attempts (v : Half) (s : State) : (s.deliver v).attempts = s.attempts := rfl
@[simp] theorem deliver_crcacc (v : Half) (s : State) : (s.deliver v).crcacc = s.crcacc := rfl
@[simp] theorem deliver_ok (v : Half) (s : State) : (s.deliver v).ok = true := rfl
@[simp] theorem deliver_rxovf (v : Half) (s : State) : (s.deliver v).rxovf = s.rxovf := rfl
@[simp] theorem deliver_txvalid (v : Half) (s : State) : (s.deliver v).txvalid = s.txvalid := rfl
@[simp] theorem deliver_txbuf (v : Half) (s : State) : (s.deliver v).txbuf = s.txbuf := rfl
@[simp] theorem deliver_rxbuf (v : Half) (s : State) : (s.deliver v).rxbuf = s.rxbuf := rfl
@[simp] theorem deliver_seq (v : Half) (s : State) : (s.deliver v).seq = .idle := rfl
@[simp] theorem deliver_timer (v : Half) (s : State) : (s.deliver v).timer = s.timer := rfl
@[simp] theorem deliver_retryLeft (v : Half) (s : State) : (s.deliver v).retryLeft = s.retryLeft := rfl
@[simp] theorem deliver_cmdop (v : Half) (s : State) : (s.deliver v).cmdop = s.cmdop := rfl
@[simp] theorem deliver_de (v : Half) (s : State) : (s.deliver v).de = s.de := rfl
@[simp] theorem deliver_lineTx (v : Half) (s : State) : (s.deliver v).lineTx = s.lineTx := rfl
@[simp] theorem deliver_lineRx (v : Half) (s : State) : (s.deliver v).lineRx = s.lineRx := rfl
@[simp] theorem deliver_rsp (v : Half) (s : State) : (s.deliver v).rsp = some (responseWord .ok v) := rfl
@[simp] theorem deliver_history (v : Half) (s : State) :
    (s.deliver v).history = s.history ++ [.resp (responseWord .ok v)] := rfl
@[simp] theorem deliver_params (v : Half) (s : State) : (s.deliver v).params = s.params := rfl
@[simp] theorem deliver_hostCmds (v : Half) (s : State) : (s.deliver v).hostCmds = s.hostCmds := rfl
@[simp] theorem deliver_schedule (v : Half) (s : State) : (s.deliver v).schedule = s.schedule := rfl

/-! ### `setDirection` -/

@[simp] theorem setDirection_tSettle (b : Bool) (s : State) : (s.setDirection b).tSettle = s.tSettle := rfl
@[simp] theorem setDirection_tResp (b : Bool) (s : State) : (s.setDirection b).tResp = s.tResp := rfl
@[simp] theorem setDirection_retryCount (b : Bool) (s : State) : (s.setDirection b).retryCount = s.retryCount := rfl
@[simp] theorem setDirection_retryDelay (b : Bool) (s : State) : (s.setDirection b).retryDelay = s.retryDelay := rfl
@[simp] theorem setDirection_slaveId (b : Bool) (s : State) : (s.setDirection b).slaveId = s.slaveId := rfl
@[simp] theorem setDirection_regAddr (b : Bool) (s : State) : (s.setDirection b).regAddr = s.regAddr := rfl
@[simp] theorem setDirection_value (b : Bool) (s : State) : (s.setDirection b).value = s.value := rfl
@[simp] theorem setDirection_err (b : Bool) (s : State) : (s.setDirection b).err = s.err := rfl
@[simp] theorem setDirection_rxlen (b : Bool) (s : State) : (s.setDirection b).rxlen = s.rxlen := rfl
@[simp] theorem setDirection_attempts (b : Bool) (s : State) : (s.setDirection b).attempts = s.attempts := rfl
@[simp] theorem setDirection_crcacc (b : Bool) (s : State) : (s.setDirection b).crcacc = s.crcacc := rfl
@[simp] theorem setDirection_ok (b : Bool) (s : State) : (s.setDirection b).ok = s.ok := rfl
@[simp] theorem setDirection_rxovf (b : Bool) (s : State) : (s.setDirection b).rxovf = s.rxovf := rfl
@[simp] theorem setDirection_txvalid (b : Bool) (s : State) : (s.setDirection b).txvalid = s.txvalid := rfl
@[simp] theorem setDirection_txbuf (b : Bool) (s : State) : (s.setDirection b).txbuf = s.txbuf := rfl
@[simp] theorem setDirection_rxbuf (b : Bool) (s : State) : (s.setDirection b).rxbuf = s.rxbuf := rfl
@[simp] theorem setDirection_seq (b : Bool) (s : State) : (s.setDirection b).seq = s.seq := rfl
@[simp] theorem setDirection_timer (b : Bool) (s : State) : (s.setDirection b).timer = s.timer := rfl
@[simp] theorem setDirection_retryLeft (b : Bool) (s : State) : (s.setDirection b).retryLeft = s.retryLeft := rfl
@[simp] theorem setDirection_cmdop (b : Bool) (s : State) : (s.setDirection b).cmdop = s.cmdop := rfl
@[simp] theorem setDirection_de (b : Bool) (s : State) : (s.setDirection b).de = b := rfl
@[simp] theorem setDirection_lineTx (b : Bool) (s : State) : (s.setDirection b).lineTx = s.lineTx := rfl
@[simp] theorem setDirection_lineRx (b : Bool) (s : State) : (s.setDirection b).lineRx = s.lineRx := rfl
@[simp] theorem setDirection_rsp (b : Bool) (s : State) : (s.setDirection b).rsp = s.rsp := rfl
@[simp] theorem setDirection_history (b : Bool) (s : State) :
    (s.setDirection b).history = s.history ++ [.dir b] := rfl
@[simp] theorem setDirection_params (b : Bool) (s : State) : (s.setDirection b).params = s.params := rfl
@[simp] theorem setDirection_hostCmds (b : Bool) (s : State) : (s.setDirection b).hostCmds = s.hostCmds := rfl
@[simp] theorem setDirection_schedule (b : Bool) (s : State) : (s.setDirection b).schedule = s.schedule := rfl

/-! ### `lineWrite` -/

@[simp] theorem lineWrite_tSettle (f : List Byte) (s : State) : (s.lineWrite f).tSettle = s.tSettle := rfl
@[simp] theorem lineWrite_tResp (f : List Byte) (s : State) : (s.lineWrite f).tResp = s.tResp := rfl
@[simp] theorem lineWrite_retryCount (f : List Byte) (s : State) : (s.lineWrite f).retryCount = s.retryCount := rfl
@[simp] theorem lineWrite_retryDelay (f : List Byte) (s : State) : (s.lineWrite f).retryDelay = s.retryDelay := rfl
@[simp] theorem lineWrite_slaveId (f : List Byte) (s : State) : (s.lineWrite f).slaveId = s.slaveId := rfl
@[simp] theorem lineWrite_regAddr (f : List Byte) (s : State) : (s.lineWrite f).regAddr = s.regAddr := rfl
@[simp] theorem lineWrite_value (f : List Byte) (s : State) : (s.lineWrite f).value = s.value := rfl
@[simp] theorem lineWrite_err (f : List Byte) (s : State) : (s.lineWrite f).err = s.err := rfl
@[simp] theorem lineWrite_rxlen (f : List Byte) (s : State) : (s.lineWrite f).rxlen = s.rxlen := rfl
@[simp] theorem lineWrite_attempts (f : List Byte) (s : State) : (s.lineWrite f).attempts = s.attempts := rfl
@[simp] theorem lineWrite_crcacc (f : List Byte) (s : State) : (s.lineWrite f).crcacc = s.crcacc := rfl
@[simp] theorem lineWrite_ok (f : List Byte) (s : State) : (s.lineWrite f).ok = s.ok := rfl
@[simp] theorem lineWrite_rxovf (f : List Byte) (s : State) : (s.lineWrite f).rxovf = s.rxovf := rfl
@[simp] theorem lineWrite_txvalid (f : List Byte) (s : State) : (s.lineWrite f).txvalid = s.txvalid := rfl
@[simp] theorem lineWrite_txbuf (f : List Byte) (s : State) : (s.lineWrite f).txbuf = s.txbuf := rfl
@[simp] theorem lineWrite_rxbuf (f : List Byte) (s : State) : (s.lineWrite f).rxbuf = s.rxbuf := rfl
@[simp] theorem lineWrite_seq (f : List Byte) (s : State) : (s.lineWrite f).seq = s.seq := rfl
@[simp] theorem lineWrite_timer (f : List Byte) (s : State) : (s.lineWrite f).timer = s.timer := rfl
@[simp] theorem lineWrite_retryLeft (f : List Byte) (s : State) : (s.lineWrite f).retryLeft = s.retryLeft := rfl
@[simp] theorem lineWrite_cmdop (f : List Byte) (s : State) : (s.lineWrite f).cmdop = s.cmdop := rfl
@[simp] theorem lineWrite_de (f : List Byte) (s : State) : (s.lineWrite f).de = s.de := rfl
@[simp] theorem lineWrite_lineTx (f : List Byte) (s : State) : (s.lineWrite f).lineTx = s.lineTx ++ [f] := rfl
@[simp] theorem lineWrite_lineRx (f : List Byte) (s : State) : (s.lineWrite f).lineRx = s.lineRx := rfl
@[simp] theorem lineWrite_rsp (f : List Byte) (s : State) : (s.lineWrite f).rsp = s.rsp := rfl
@[simp] theorem lineWrite_history (f : List Byte) (s : State) : (s.lineWrite f).history = s.history ++ [.tx f] := rfl
@[simp] theorem lineWrite_params (f : List Byte) (s : State) : (s.lineWrite f).params = s.params := rfl
@[simp] theorem lineWrite_hostCmds (f : List Byte) (s : State) : (s.lineWrite f).hostCmds = s.hostCmds := rfl
@[simp] theorem lineWrite_schedule (f : List Byte) (s : State) : (s.lineWrite f).schedule = s.schedule := rfl

/-! ### `receive` -/

@[simp] theorem receive_tSettle (s : State) : s.receive.tSettle = s.tSettle := rfl
@[simp] theorem receive_tResp (s : State) : s.receive.tResp = s.tResp := rfl
@[simp] theorem receive_retryCount (s : State) : s.receive.retryCount = s.retryCount := rfl
@[simp] theorem receive_retryDelay (s : State) : s.receive.retryDelay = s.retryDelay := rfl
@[simp] theorem receive_slaveId (s : State) : s.receive.slaveId = s.slaveId := rfl
@[simp] theorem receive_regAddr (s : State) : s.receive.regAddr = s.regAddr := rfl
@[simp] theorem receive_value (s : State) : s.receive.value = s.value := rfl
@[simp] theorem receive_err (s : State) : s.receive.err = s.err := rfl
@[simp] theorem receive_rxlen (s : State) :
    s.receive.rxlen = BitVec.ofNat 16 (min s.lineRx.length s.params.rxcap) := rfl
@[simp] theorem receive_attempts (s : State) : s.receive.attempts = s.attempts := rfl
@[simp] theorem receive_crcacc (s : State) : s.receive.crcacc = s.crcacc := rfl
@[simp] theorem receive_ok (s : State) : s.receive.ok = s.ok := rfl
@[simp] theorem receive_rxovf (s : State) : s.receive.rxovf = decide (s.params.rxcap < s.lineRx.length) := rfl
@[simp] theorem receive_txvalid (s : State) : s.receive.txvalid = s.txvalid := rfl
@[simp] theorem receive_txbuf (s : State) : s.receive.txbuf = s.txbuf := rfl
@[simp] theorem receive_rxbuf (s : State) :
    s.receive.rxbuf = Memory.writeBytes [] 0 (s.lineRx.take (min s.lineRx.length s.params.rxcap)) := rfl
@[simp] theorem receive_seq (s : State) : s.receive.seq = s.seq := rfl
@[simp] theorem receive_timer (s : State) : s.receive.timer = s.timer := rfl
@[simp] theorem receive_retryLeft (s : State) : s.receive.retryLeft = s.retryLeft := rfl
@[simp] theorem receive_cmdop (s : State) : s.receive.cmdop = s.cmdop := rfl
@[simp] theorem receive_de (s : State) : s.receive.de = s.de := rfl
@[simp] theorem receive_lineTx (s : State) : s.receive.lineTx = s.lineTx := rfl
@[simp] theorem receive_lineRx (s : State) : s.receive.lineRx = [] := rfl
@[simp] theorem receive_rsp (s : State) : s.receive.rsp = s.rsp := rfl
@[simp] theorem receive_history (s : State) : s.receive.history = s.history ++ [.rxRead s.lineRx] := rfl
@[simp] theorem receive_params (s : State) : s.receive.params = s.params := rfl
@[simp] theorem receive_hostCmds (s : State) : s.receive.hostCmds = s.hostCmds := rfl
@[simp] theorem receive_schedule (s : State) : s.receive.schedule = s.schedule := rfl

/-! ### `storeRequest` -/

@[simp] theorem storeRequest_tSettle (sid : Byte) (addr : Half) (s : State) :
    (s.storeRequest sid addr).tSettle = s.tSettle := rfl
@[simp] theorem storeRequest_tResp (sid : Byte) (addr : Half) (s : State) :
    (s.storeRequest sid addr).tResp = s.tResp := rfl
@[simp] theorem storeRequest_retryCount (sid : Byte) (addr : Half) (s : State) :
    (s.storeRequest sid addr).retryCount = s.retryCount := rfl
@[simp] theorem storeRequest_retryDelay (sid : Byte) (addr : Half) (s : State) :
    (s.storeRequest sid addr).retryDelay = s.retryDelay := rfl
@[simp] theorem storeRequest_slaveId (sid : Byte) (addr : Half) (s : State) :
    (s.storeRequest sid addr).slaveId = s.slaveId := rfl
@[simp] theorem storeRequest_regAddr (sid : Byte) (addr : Half) (s : State) :
    (s.storeRequest sid addr).regAddr = s.regAddr := rfl
@[simp] theorem storeRequest_value (sid : Byte) (addr : Half) (s : State) :
    (s.storeRequest sid addr).value = s.value := rfl
@[simp] theorem storeRequest_err (sid : Byte) (addr : Half) (s : State) : (s.storeRequest sid addr).err = s.err := rfl
@[simp] theorem storeRequest_rxlen (sid : Byte) (addr : Half) (s : State) :
    (s.storeRequest sid addr).rxlen = s.rxlen := rfl
@[simp] theorem storeRequest_attempts (sid : Byte) (addr : Half) (s : State) :
    (s.storeRequest sid addr).attempts = s.attempts := rfl
@[simp] theorem storeRequest_crcacc (sid : Byte) (addr : Half) (s : State) :
    (s.storeRequest sid addr).crcacc = s.crcacc := rfl
@[simp] theorem storeRequest_ok (sid : Byte) (addr : Half) (s : State) : (s.storeRequest sid addr).ok = s.ok := rfl
@[simp] theorem storeRequest_rxovf (sid : Byte) (addr : Half) (s : State) :
    (s.storeRequest sid addr).rxovf = s.rxovf := rfl
@[simp] theorem storeRequest_txvalid (sid : Byte) (addr : Half) (s : State) :
    (s.storeRequest sid addr).txvalid = s.txvalid := rfl
@[simp] theorem storeRequest_txbuf (sid : Byte) (addr : Half) (s : State) :
    (s.storeRequest sid addr).txbuf = s.txbuf.writeBytes 0 (encodeRequest sid addr) := rfl
@[simp] theorem storeRequest_rxbuf (sid : Byte) (addr : Half) (s : State) :
    (s.storeRequest sid addr).rxbuf = s.rxbuf := rfl
@[simp] theorem storeRequest_seq (sid : Byte) (addr : Half) (s : State) : (s.storeRequest sid addr).seq = s.seq := rfl
@[simp] theorem storeRequest_timer (sid : Byte) (addr : Half) (s : State) :
    (s.storeRequest sid addr).timer = s.timer := rfl
@[simp] theorem storeRequest_retryLeft (sid : Byte) (addr : Half) (s : State) :
    (s.storeRequest sid addr).retryLeft = s.retryLeft := rfl
@[simp] theorem storeRequest_cmdop (sid : Byte) (addr : Half) (s : State) :
    (s.storeRequest sid addr).cmdop = s.cmdop := rfl
@[simp] theorem storeRequest_de (sid : Byte) (addr : Half) (s : State) : (s.storeRequest sid addr).de = s.de := rfl
@[simp] theorem storeRequest_lineTx (sid : Byte) (addr : Half) (s : State) :
    (s.storeRequest sid addr).lineTx = s.lineTx := rfl
@[simp] theorem storeRequest_lineRx (sid : Byte) (addr : Half) (s : State) :
    (s.storeRequest sid addr).lineRx = s.lineRx := rfl
@[simp] theorem storeRequest_rsp (sid : Byte) (addr : Half) (s : State) : (s.storeRequest sid addr).rsp = s.rsp := rfl
@[simp] theorem storeRequest_history (sid : Byte) (addr : Half) (s : State) :
    (s.storeRequest sid addr).history = s.history := rfl
@[simp] theorem storeRequest_params (sid : Byte) (addr : Half) (s : State) :
    (s.storeRequest sid addr).params = s.params := rfl
@[simp] theorem storeRequest_hostCmds (sid : Byte) (addr : Half) (s : State) :
    (s.storeRequest sid addr).hostCmds = s.hostCmds := rfl
@[simp] theorem storeRequest_schedule (sid : Byte) (addr : Half) (s : State) :
    (s.storeRequest sid addr).schedule = s.schedule := rfl

/-! ### `arrive` -/

@[simp] theorem arrive_tSettle (bytes : List Byte) (s : State) : (s.arrive bytes).tSettle = s.tSettle := rfl
@[simp] theorem arrive_tResp (bytes : List Byte) (s : State) : (s.arrive bytes).tResp = s.tResp := rfl
@[simp] theorem arrive_retryCount (bytes : List Byte) (s : State) : (s.arrive bytes).retryCount = s.retryCount := rfl
@[simp] theorem arrive_retryDelay (bytes : List Byte) (s : State) : (s.arrive bytes).retryDelay = s.retryDelay := rfl
@[simp] theorem arrive_slaveId (bytes : List Byte) (s : State) : (s.arrive bytes).slaveId = s.slaveId := rfl
@[simp] theorem arrive_regAddr (bytes : List Byte) (s : State) : (s.arrive bytes).regAddr = s.regAddr := rfl
@[simp] theorem arrive_value (bytes : List Byte) (s : State) : (s.arrive bytes).value = s.value := rfl
@[simp] theorem arrive_err (bytes : List Byte) (s : State) : (s.arrive bytes).err = s.err := rfl
@[simp] theorem arrive_rxlen (bytes : List Byte) (s : State) : (s.arrive bytes).rxlen = s.rxlen := rfl
@[simp] theorem arrive_attempts (bytes : List Byte) (s : State) : (s.arrive bytes).attempts = s.attempts := rfl
@[simp] theorem arrive_crcacc (bytes : List Byte) (s : State) : (s.arrive bytes).crcacc = s.crcacc := rfl
@[simp] theorem arrive_ok (bytes : List Byte) (s : State) : (s.arrive bytes).ok = s.ok := rfl
@[simp] theorem arrive_rxovf (bytes : List Byte) (s : State) : (s.arrive bytes).rxovf = s.rxovf := rfl
@[simp] theorem arrive_txvalid (bytes : List Byte) (s : State) : (s.arrive bytes).txvalid = s.txvalid := rfl
@[simp] theorem arrive_txbuf (bytes : List Byte) (s : State) : (s.arrive bytes).txbuf = s.txbuf := rfl
@[simp] theorem arrive_rxbuf (bytes : List Byte) (s : State) : (s.arrive bytes).rxbuf = s.rxbuf := rfl
@[simp] theorem arrive_seq (bytes : List Byte) (s : State) : (s.arrive bytes).seq = s.seq := rfl
@[simp] theorem arrive_timer (bytes : List Byte) (s : State) : (s.arrive bytes).timer = s.timer := rfl
@[simp] theorem arrive_retryLeft (bytes : List Byte) (s : State) : (s.arrive bytes).retryLeft = s.retryLeft := rfl
@[simp] theorem arrive_cmdop (bytes : List Byte) (s : State) : (s.arrive bytes).cmdop = s.cmdop := rfl
@[simp] theorem arrive_de (bytes : List Byte) (s : State) : (s.arrive bytes).de = s.de := rfl
@[simp] theorem arrive_lineTx (bytes : List Byte) (s : State) : (s.arrive bytes).lineTx = s.lineTx := rfl
@[simp] theorem arrive_lineRx (bytes : List Byte) (s : State) : (s.arrive bytes).lineRx = s.lineRx ++ bytes := rfl
@[simp] theorem arrive_rsp (bytes : List Byte) (s : State) : (s.arrive bytes).rsp = s.rsp := rfl
@[simp] theorem arrive_history (bytes : List Byte) (s : State) :
    (s.arrive bytes).history = s.history ++ bytes.map .arrive := rfl
@[simp] theorem arrive_params (bytes : List Byte) (s : State) : (s.arrive bytes).params = s.params := rfl
@[simp] theorem arrive_hostCmds (bytes : List Byte) (s : State) : (s.arrive bytes).hostCmds = s.hostCmds := rfl
@[simp] theorem arrive_schedule (bytes : List Byte) (s : State) : (s.arrive bytes).schedule = s.schedule := rfl

/-! ### `tickEvent` -/

@[simp] theorem tickEvent_tSettle (s : State) : s.tickEvent.tSettle = s.tSettle := rfl
@[simp] theorem tickEvent_tResp (s : State) : s.tickEvent.tResp = s.tResp := rfl
@[simp] theorem tickEvent_retryCount (s : State) : s.tickEvent.retryCount = s.retryCount := rfl
@[simp] theorem tickEvent_retryDelay (s : State) : s.tickEvent.retryDelay = s.retryDelay := rfl
@[simp] theorem tickEvent_slaveId (s : State) : s.tickEvent.slaveId = s.slaveId := rfl
@[simp] theorem tickEvent_regAddr (s : State) : s.tickEvent.regAddr = s.regAddr := rfl
@[simp] theorem tickEvent_value (s : State) : s.tickEvent.value = s.value := rfl
@[simp] theorem tickEvent_err (s : State) : s.tickEvent.err = s.err := rfl
@[simp] theorem tickEvent_rxlen (s : State) : s.tickEvent.rxlen = s.rxlen := rfl
@[simp] theorem tickEvent_attempts (s : State) : s.tickEvent.attempts = s.attempts := rfl
@[simp] theorem tickEvent_crcacc (s : State) : s.tickEvent.crcacc = s.crcacc := rfl
@[simp] theorem tickEvent_ok (s : State) : s.tickEvent.ok = s.ok := rfl
@[simp] theorem tickEvent_rxovf (s : State) : s.tickEvent.rxovf = s.rxovf := rfl
@[simp] theorem tickEvent_txvalid (s : State) : s.tickEvent.txvalid = s.txvalid := rfl
@[simp] theorem tickEvent_txbuf (s : State) : s.tickEvent.txbuf = s.txbuf := rfl
@[simp] theorem tickEvent_rxbuf (s : State) : s.tickEvent.rxbuf = s.rxbuf := rfl
@[simp] theorem tickEvent_seq (s : State) : s.tickEvent.seq = s.seq := rfl
@[simp] theorem tickEvent_timer (s : State) :
    s.tickEvent.timer = if s.waiting && s.timer != 0 then s.timer - 1 else s.timer := rfl
@[simp] theorem tickEvent_retryLeft (s : State) : s.tickEvent.retryLeft = s.retryLeft := rfl
@[simp] theorem tickEvent_cmdop (s : State) : s.tickEvent.cmdop = s.cmdop := rfl
@[simp] theorem tickEvent_de (s : State) : s.tickEvent.de = s.de := rfl
@[simp] theorem tickEvent_lineTx (s : State) : s.tickEvent.lineTx = s.lineTx := rfl
@[simp] theorem tickEvent_lineRx (s : State) : s.tickEvent.lineRx = s.lineRx := rfl
@[simp] theorem tickEvent_rsp (s : State) : s.tickEvent.rsp = s.rsp := rfl
@[simp] theorem tickEvent_history (s : State) : s.tickEvent.history = s.history ++ [.tick] := rfl
@[simp] theorem tickEvent_params (s : State) : s.tickEvent.params = s.params := rfl
@[simp] theorem tickEvent_hostCmds (s : State) : s.tickEvent.hostCmds = s.hostCmds := rfl
@[simp] theorem tickEvent_schedule (s : State) : s.tickEvent.schedule = s.schedule := rfl

/-! ### `clearOk` -/

@[simp] theorem clearOk_tSettle (s : State) : s.clearOk.tSettle = s.tSettle := rfl
@[simp] theorem clearOk_tResp (s : State) : s.clearOk.tResp = s.tResp := rfl
@[simp] theorem clearOk_retryCount (s : State) : s.clearOk.retryCount = s.retryCount := rfl
@[simp] theorem clearOk_retryDelay (s : State) : s.clearOk.retryDelay = s.retryDelay := rfl
@[simp] theorem clearOk_slaveId (s : State) : s.clearOk.slaveId = s.slaveId := rfl
@[simp] theorem clearOk_regAddr (s : State) : s.clearOk.regAddr = s.regAddr := rfl
@[simp] theorem clearOk_value (s : State) : s.clearOk.value = s.value := rfl
@[simp] theorem clearOk_err (s : State) : s.clearOk.err = s.err := rfl
@[simp] theorem clearOk_rxlen (s : State) : s.clearOk.rxlen = s.rxlen := rfl
@[simp] theorem clearOk_attempts (s : State) : s.clearOk.attempts = s.attempts := rfl
@[simp] theorem clearOk_crcacc (s : State) : s.clearOk.crcacc = s.crcacc := rfl
@[simp] theorem clearOk_ok (s : State) : s.clearOk.ok = false := rfl
@[simp] theorem clearOk_rxovf (s : State) : s.clearOk.rxovf = s.rxovf := rfl
@[simp] theorem clearOk_txvalid (s : State) : s.clearOk.txvalid = s.txvalid := rfl
@[simp] theorem clearOk_txbuf (s : State) : s.clearOk.txbuf = s.txbuf := rfl
@[simp] theorem clearOk_rxbuf (s : State) : s.clearOk.rxbuf = s.rxbuf := rfl
@[simp] theorem clearOk_seq (s : State) : s.clearOk.seq = s.seq := rfl
@[simp] theorem clearOk_timer (s : State) : s.clearOk.timer = s.timer := rfl
@[simp] theorem clearOk_retryLeft (s : State) : s.clearOk.retryLeft = s.retryLeft := rfl
@[simp] theorem clearOk_cmdop (s : State) : s.clearOk.cmdop = s.cmdop := rfl
@[simp] theorem clearOk_de (s : State) : s.clearOk.de = s.de := rfl
@[simp] theorem clearOk_lineTx (s : State) : s.clearOk.lineTx = s.lineTx := rfl
@[simp] theorem clearOk_lineRx (s : State) : s.clearOk.lineRx = s.lineRx := rfl
@[simp] theorem clearOk_rsp (s : State) : s.clearOk.rsp = s.rsp := rfl
@[simp] theorem clearOk_history (s : State) : s.clearOk.history = s.history := rfl
@[simp] theorem clearOk_params (s : State) : s.clearOk.params = s.params := rfl
@[simp] theorem clearOk_hostCmds (s : State) : s.clearOk.hostCmds = s.hostCmds := rfl
@[simp] theorem clearOk_schedule (s : State) : s.clearOk.schedule = s.schedule := rfl

/-! ### `setTxvalid` -/

@[simp] theorem setTxvalid_tSettle (s : State) : s.setTxvalid.tSettle = s.tSettle := rfl
@[simp] theorem setTxvalid_tResp (s : State) : s.setTxvalid.tResp = s.tResp := rfl
@[simp] theorem setTxvalid_retryCount (s : State) : s.setTxvalid.retryCount = s.retryCount := rfl
@[simp] theorem setTxvalid_retryDelay (s : State) : s.setTxvalid.retryDelay = s.retryDelay := rfl
@[simp] theorem setTxvalid_slaveId (s : State) : s.setTxvalid.slaveId = s.slaveId := rfl
@[simp] theorem setTxvalid_regAddr (s : State) : s.setTxvalid.regAddr = s.regAddr := rfl
@[simp] theorem setTxvalid_value (s : State) : s.setTxvalid.value = s.value := rfl
@[simp] theorem setTxvalid_err (s : State) : s.setTxvalid.err = s.err := rfl
@[simp] theorem setTxvalid_rxlen (s : State) : s.setTxvalid.rxlen = s.rxlen := rfl
@[simp] theorem setTxvalid_attempts (s : State) : s.setTxvalid.attempts = s.attempts := rfl
@[simp] theorem setTxvalid_crcacc (s : State) : s.setTxvalid.crcacc = s.crcacc := rfl
@[simp] theorem setTxvalid_ok (s : State) : s.setTxvalid.ok = s.ok := rfl
@[simp] theorem setTxvalid_rxovf (s : State) : s.setTxvalid.rxovf = s.rxovf := rfl
@[simp] theorem setTxvalid_txvalid (s : State) : s.setTxvalid.txvalid = true := rfl
@[simp] theorem setTxvalid_txbuf (s : State) : s.setTxvalid.txbuf = s.txbuf := rfl
@[simp] theorem setTxvalid_rxbuf (s : State) : s.setTxvalid.rxbuf = s.rxbuf := rfl
@[simp] theorem setTxvalid_seq (s : State) : s.setTxvalid.seq = s.seq := rfl
@[simp] theorem setTxvalid_timer (s : State) : s.setTxvalid.timer = s.timer := rfl
@[simp] theorem setTxvalid_retryLeft (s : State) : s.setTxvalid.retryLeft = s.retryLeft := rfl
@[simp] theorem setTxvalid_cmdop (s : State) : s.setTxvalid.cmdop = s.cmdop := rfl
@[simp] theorem setTxvalid_de (s : State) : s.setTxvalid.de = s.de := rfl
@[simp] theorem setTxvalid_lineTx (s : State) : s.setTxvalid.lineTx = s.lineTx := rfl
@[simp] theorem setTxvalid_lineRx (s : State) : s.setTxvalid.lineRx = s.lineRx := rfl
@[simp] theorem setTxvalid_rsp (s : State) : s.setTxvalid.rsp = s.rsp := rfl
@[simp] theorem setTxvalid_history (s : State) : s.setTxvalid.history = s.history := rfl
@[simp] theorem setTxvalid_params (s : State) : s.setTxvalid.params = s.params := rfl
@[simp] theorem setTxvalid_hostCmds (s : State) : s.setTxvalid.hostCmds = s.hostCmds := rfl
@[simp] theorem setTxvalid_schedule (s : State) : s.setTxvalid.schedule = s.schedule := rfl

/-! ### `startTurn` -/

@[simp] theorem startTurn_tSettle (s : State) : s.startTurn.tSettle = s.tSettle := rfl
@[simp] theorem startTurn_tResp (s : State) : s.startTurn.tResp = s.tResp := rfl
@[simp] theorem startTurn_retryCount (s : State) : s.startTurn.retryCount = s.retryCount := rfl
@[simp] theorem startTurn_retryDelay (s : State) : s.startTurn.retryDelay = s.retryDelay := rfl
@[simp] theorem startTurn_slaveId (s : State) : s.startTurn.slaveId = s.slaveId := rfl
@[simp] theorem startTurn_regAddr (s : State) : s.startTurn.regAddr = s.regAddr := rfl
@[simp] theorem startTurn_value (s : State) : s.startTurn.value = s.value := rfl
@[simp] theorem startTurn_err (s : State) : s.startTurn.err = s.err := rfl
@[simp] theorem startTurn_rxlen (s : State) : s.startTurn.rxlen = s.rxlen := rfl
@[simp] theorem startTurn_attempts (s : State) : s.startTurn.attempts = s.attempts := rfl
@[simp] theorem startTurn_crcacc (s : State) : s.startTurn.crcacc = s.crcacc := rfl
@[simp] theorem startTurn_ok (s : State) : s.startTurn.ok = s.ok := rfl
@[simp] theorem startTurn_rxovf (s : State) : s.startTurn.rxovf = s.rxovf := rfl
@[simp] theorem startTurn_txvalid (s : State) : s.startTurn.txvalid = s.txvalid := rfl
@[simp] theorem startTurn_txbuf (s : State) : s.startTurn.txbuf = s.txbuf := rfl
@[simp] theorem startTurn_rxbuf (s : State) : s.startTurn.rxbuf = s.rxbuf := rfl
@[simp] theorem startTurn_seq (s : State) : s.startTurn.seq = s.seq := rfl
@[simp] theorem startTurn_timer (s : State) : s.startTurn.timer = s.timer := rfl
@[simp] theorem startTurn_retryLeft (s : State) : s.startTurn.retryLeft = s.retryLeft := rfl
@[simp] theorem startTurn_cmdop (s : State) : s.startTurn.cmdop = s.cmdop := rfl
@[simp] theorem startTurn_de (s : State) : s.startTurn.de = s.de := rfl
@[simp] theorem startTurn_lineTx (s : State) : s.startTurn.lineTx = s.lineTx := rfl
@[simp] theorem startTurn_lineRx (s : State) : s.startTurn.lineRx = s.lineRx := rfl
@[simp] theorem startTurn_rsp (s : State) : s.startTurn.rsp = none := rfl
@[simp] theorem startTurn_history (s : State) : s.startTurn.history = s.history := rfl
@[simp] theorem startTurn_params (s : State) : s.startTurn.params = s.params := rfl
@[simp] theorem startTurn_hostCmds (s : State) : s.startTurn.hostCmds = s.hostCmds := rfl
@[simp] theorem startTurn_schedule (s : State) : s.startTurn.schedule = s.schedule.tail := rfl

/-! ### `accept` -/

@[simp] theorem accept_tSettle (w : Word) (s : State) : (s.accept w).tSettle = s.tSettle := rfl
@[simp] theorem accept_tResp (w : Word) (s : State) : (s.accept w).tResp = s.tResp := rfl
@[simp] theorem accept_retryCount (w : Word) (s : State) : (s.accept w).retryCount = s.retryCount := rfl
@[simp] theorem accept_retryDelay (w : Word) (s : State) : (s.accept w).retryDelay = s.retryDelay := rfl
@[simp] theorem accept_slaveId (w : Word) (s : State) : (s.accept w).slaveId = s.slaveId := rfl
@[simp] theorem accept_regAddr (w : Word) (s : State) : (s.accept w).regAddr = s.regAddr := rfl
@[simp] theorem accept_value (w : Word) (s : State) : (s.accept w).value = s.value := rfl
@[simp] theorem accept_err (w : Word) (s : State) : (s.accept w).err = s.err := rfl
@[simp] theorem accept_rxlen (w : Word) (s : State) : (s.accept w).rxlen = s.rxlen := rfl
@[simp] theorem accept_attempts (w : Word) (s : State) : (s.accept w).attempts = s.attempts := rfl
@[simp] theorem accept_crcacc (w : Word) (s : State) : (s.accept w).crcacc = s.crcacc := rfl
@[simp] theorem accept_ok (w : Word) (s : State) : (s.accept w).ok = s.ok := rfl
@[simp] theorem accept_rxovf (w : Word) (s : State) : (s.accept w).rxovf = s.rxovf := rfl
@[simp] theorem accept_txvalid (w : Word) (s : State) : (s.accept w).txvalid = s.txvalid := rfl
@[simp] theorem accept_txbuf (w : Word) (s : State) : (s.accept w).txbuf = s.txbuf := rfl
@[simp] theorem accept_rxbuf (w : Word) (s : State) : (s.accept w).rxbuf = s.rxbuf := rfl
@[simp] theorem accept_seq (w : Word) (s : State) : (s.accept w).seq = s.seq := rfl
@[simp] theorem accept_timer (w : Word) (s : State) : (s.accept w).timer = s.timer := rfl
@[simp] theorem accept_retryLeft (w : Word) (s : State) : (s.accept w).retryLeft = s.retryLeft := rfl
@[simp] theorem accept_cmdop (w : Word) (s : State) : (s.accept w).cmdop = s.cmdop := rfl
@[simp] theorem accept_de (w : Word) (s : State) : (s.accept w).de = s.de := rfl
@[simp] theorem accept_lineTx (w : Word) (s : State) : (s.accept w).lineTx = s.lineTx := rfl
@[simp] theorem accept_lineRx (w : Word) (s : State) : (s.accept w).lineRx = s.lineRx := rfl
@[simp] theorem accept_rsp (w : Word) (s : State) : (s.accept w).rsp = s.rsp := rfl
@[simp] theorem accept_history (w : Word) (s : State) : (s.accept w).history = s.history ++ [.cmd w] := rfl
@[simp] theorem accept_params (w : Word) (s : State) : (s.accept w).params = s.params := rfl
@[simp] theorem accept_hostCmds (w : Word) (s : State) : (s.accept w).hostCmds = s.hostCmds.tail := rfl
@[simp] theorem accept_schedule (w : Word) (s : State) : (s.accept w).schedule = s.schedule := rfl

/-! ### `resetEvent` -/

@[simp] theorem resetEvent_tSettle (s : State) : s.resetEvent.tSettle = s.params.tSettleReset := rfl
@[simp] theorem resetEvent_tResp (s : State) : s.resetEvent.tResp = s.params.tRespReset := rfl
@[simp] theorem resetEvent_retryCount (s : State) : s.resetEvent.retryCount = 0 := rfl
@[simp] theorem resetEvent_retryDelay (s : State) : s.resetEvent.retryDelay = s.params.retryDelayReset := rfl
@[simp] theorem resetEvent_slaveId (s : State) : s.resetEvent.slaveId = 0 := rfl
@[simp] theorem resetEvent_regAddr (s : State) : s.resetEvent.regAddr = 0 := rfl
@[simp] theorem resetEvent_value (s : State) : s.resetEvent.value = 0 := rfl
@[simp] theorem resetEvent_err (s : State) : s.resetEvent.err = 0 := rfl
@[simp] theorem resetEvent_rxlen (s : State) : s.resetEvent.rxlen = 0 := rfl
@[simp] theorem resetEvent_attempts (s : State) : s.resetEvent.attempts = 0 := rfl
@[simp] theorem resetEvent_crcacc (s : State) : s.resetEvent.crcacc = 0xFFFF := rfl
@[simp] theorem resetEvent_ok (s : State) : s.resetEvent.ok = false := rfl
@[simp] theorem resetEvent_rxovf (s : State) : s.resetEvent.rxovf = false := rfl
@[simp] theorem resetEvent_txvalid (s : State) : s.resetEvent.txvalid = false := rfl
@[simp] theorem resetEvent_txbuf (s : State) : s.resetEvent.txbuf = [] := rfl
@[simp] theorem resetEvent_rxbuf (s : State) : s.resetEvent.rxbuf = [] := rfl
@[simp] theorem resetEvent_seq (s : State) : s.resetEvent.seq = .idle := rfl
@[simp] theorem resetEvent_timer (s : State) : s.resetEvent.timer = 0 := rfl
@[simp] theorem resetEvent_retryLeft (s : State) : s.resetEvent.retryLeft = 0 := rfl
@[simp] theorem resetEvent_cmdop (s : State) : s.resetEvent.cmdop = .xact := rfl
@[simp] theorem resetEvent_de (s : State) : s.resetEvent.de = false := rfl
@[simp] theorem resetEvent_lineTx (s : State) : s.resetEvent.lineTx = s.lineTx := rfl
@[simp] theorem resetEvent_lineRx (s : State) : s.resetEvent.lineRx = s.lineRx := rfl
@[simp] theorem resetEvent_rsp (s : State) : s.resetEvent.rsp = none := rfl
@[simp] theorem resetEvent_history (s : State) : s.resetEvent.history = s.history ++ [.reset] := rfl
@[simp] theorem resetEvent_params (s : State) : s.resetEvent.params = s.params := rfl
@[simp] theorem resetEvent_hostCmds (s : State) : s.resetEvent.hostCmds = s.hostCmds := rfl
@[simp] theorem resetEvent_schedule (s : State) : s.resetEvent.schedule = s.schedule := rfl

end Sys2Proof.Machine.State
end

