-- ==== Sys2Proof/Laws/Ops.lean ====
section
/-! SUPPORT. What each shared operation can do, said once: buffers, the sequencer, SET and GET data, frames on the line. -/

namespace Sys2Proof.Machine

/-! ### Buffers of the state -/

/-- `MemWrite(TXBUF, 0, 8, f)` makes `f` the request. -/
@[simp] theorem request_storeRequest (sid : Byte) (addr : Half) (s : State) :
    (s.storeRequest sid addr).request = encodeRequest sid addr :=
  Memory.readBytes_writeBytes .tx s.txbuf 0 (encodeRequest sid addr)

/-- The request depends on `TXBUF` alone. -/
theorem request_congr {s t : State} (h : t.txbuf = s.txbuf) : t.request = s.request := by
  simp [State.request, h]

/-- The reception depends on `RXBUF` and `RXLEN` alone. -/
theorem reception_congr {s t : State} (h : t.rxbuf = s.rxbuf) (h' : t.rxlen = s.rxlen) : t.reception = s.reception := by
  simp [State.reception, h, h']

/-- `RXLEN` holds the number of bytes stored without wrapping (10_state.md R38). -/
theorem toNat_receive_rxlen (s : State) : s.receive.rxlen.toNat = min s.lineRx.length s.params.rxcap := by
  have := s.params.rxcap_legal.2
  rw [State.receive_rxlen, BitVec.toNat_ofNat, Nat.mod_eq_of_lt]
  omega

/-- What `RxRead` leaves in `RXBUF`: the first `RXCAP` bytes that had arrived (20_memory.md R60). -/
theorem reception_receive (s : State) : s.receive.reception = s.lineRx.take s.params.rxcap := by
  have e : s.lineRx.take (min s.lineRx.length s.params.rxcap) = s.lineRx.take s.params.rxcap := by
    rw [Nat.min_comm, ← List.take_eq_take_min]
  have l : s.receive.rxlen.toNat = (s.lineRx.take s.params.rxcap).length := by
    rw [toNat_receive_rxlen, List.length_take, Nat.min_comm]
  unfold State.reception
  rw [l, State.receive_rxbuf, e]
  exact Memory.readBytes_writeBytes .rx [] 0 _

/-- `RXLEN` bytes are read back. -/
@[simp] theorem length_reception (s : State) : s.reception.length = s.rxlen.toNat := Memory.length_readBytes _ _ _ _

/-! ### SET -/

/-- A SET leaves everything but the configuration registers alone. -/
theorem setData_frame (r : Reg) (imm : Half) (s : State) :
    ∃ ts tr rc rd, setData r imm s = { s with tSettle := ts, tResp := tr, retryCount := rc, retryDelay := rd } := by
  cases r <;> exact ⟨_, _, _, _, rfl⟩

/-- A GET of a register other than the windows always finds a value. -/
theorem getData_ok (r : Reg) (imm : Half) (s : State) (h1 : r ≠ .txbuf) (h2 : r ≠ .rxbuf) :
    ∃ d, getData r imm s = .ok d := by
  cases r <;> first | exact ⟨_, rfl⟩ | contradiction

/-- The only refusal of a GET that is legal is `NoData`. -/
theorem getData_error {r : Reg} {imm : Half} {s : State} {e : Status} (h : getData r imm s = .error e) :
    e = .noData := by
  cases r <;> simp only [getData, reduceCtorEq] at h <;> split at h <;> simp_all

/-! ### The sequencer -/

/-- All the transitions of the sequencer (42_transceiver.md R141, 43_register_reader.md R161). -/
theorem sequencerStep_cases (s : State) :
    (s.seq = .idle ∧ sequencerStep s = s) ∨
    (s.seq = .txen ∧ sequencerStep s = stepDirOn s) ∨
    (s.seq = .write ∧ sequencerStep s = stepTx s) ∨
    (s.seq = .settle ∧ s.timer = 0#16 ∧ sequencerStep s = stepDirOff s) ∨
    (s.seq = .rxwait ∧ s.timer = 0#16 ∧ sequencerStep s = stepRxRead s) ∨
    (s.seq = .eval ∧ sequencerStep s = stepEval s) ∨
    (s.seq = .rdelay ∧ s.timer = 0#16 ∧ sequencerStep s = stepRetry s) ∨
    (s.waiting = true ∧ s.timer ≠ 0#16 ∧ sequencerStep s = s) := by
  by_cases ht : s.timer = 0#16 <;> cases hs : s.seq <;> simp [sequencerStep, State.waiting, hs, ht]

/-- What `Eval` can do (43_register_reader.md R159). -/
theorem stepEval_cases (s : State) :
    (∃ v, judge s.reception = .ok v ∧ stepEval s = s.deliver v) ∨
    (∃ e, judge s.reception = .error e ∧ s.retryLeft = 0#8 ∧ stepEval s = s.raise (.read e)) ∨
    (∃ e, judge s.reception = .error e ∧ s.retryLeft ≠ 0#8 ∧
      stepEval s = { s with retryLeft := s.retryLeft - 1, timer := s.retryDelay, seq := .rdelay }) := by
  unfold stepEval
  cases h : judge s.reception with
  | ok v => exact .inl ⟨v, rfl, rfl⟩
  | error e =>
    by_cases hr : s.retryLeft = 0#8
    · exact .inr (.inl ⟨e, rfl, hr, if_pos hr⟩)
    · exact .inr (.inr ⟨e, rfl, hr, if_neg hr⟩)

/-- What `RxRead` can do (42_transceiver.md R140). -/
theorem stepRxRead_cases (s : State) :
    (s.cmdop = .xact ∧ stepRxRead s = s.receive.complete s.receive.rxlen) ∨
    (s.cmdop = .read ∧ stepRxRead s = { s.receive with seq := .eval }) := by
  unfold stepRxRead
  cases hc : s.cmdop with
  | xact => exact .inl ⟨rfl, rfl⟩
  | read => exact .inr ⟨rfl, rfl⟩

/-- The three waiting states (10_state.md R29). -/
theorem waiting_iff (s : State) : s.waiting = true ↔ s.seq = .settle ∨ s.seq = .rxwait ∨ s.seq = .rdelay := by
  cases h : s.seq <;> simp [State.waiting, h]

/-- A tick in a wait takes one from `TIMER`, never below 0 (10_state.md R29). -/
theorem toNat_tickEvent_timer {s : State} (hw : s.waiting = true) : s.tickEvent.timer.toNat = s.timer.toNat - 1 := by
  rw [State.tickEvent_timer, hw]
  by_cases h0 : s.timer = 0#16
  · simp [h0]
  · have h : s.timer.toNat ≠ 0 := fun h => h0 (BitVec.eq_of_toNat_eq h)
    have := s.timer.isLt
    simp [h0, BitVec.toNat_sub]
    omega

/-- A tick outside a wait leaves `TIMER` alone. -/
theorem tickEvent_timer_of_not_waiting {s : State} (hw : s.waiting = false) : s.tickEvent.timer = s.timer := by
  rw [State.tickEvent_timer, hw]
  rfl

/-- In a wait with ticks missing the sequencer has no step of its own. -/
theorem sequencerStep_of_waiting {s : State} (hw : s.waiting = true) (ht : s.timer ≠ 0#16) : sequencerStep s = s := by
  rcases (waiting_iff s).1 hw with h | h | h <;> simp [sequencerStep, h, ht]

/-- What a SET may write, and which values. -/
theorem setLegal_index {r : Reg} {imm : Half} (h : setLegal r.index imm = true) :
    r = .tSettle ∨ r = .tResp ∨ (r = .retryCount ∧ imm.toNat ≤ 255) ∨ r = .retryDelay := by
  have e := ofIndex_index r
  cases r <;> simp_all [setLegal, Reg.writable, Reg.maxValue]

/-! ### Frames on the line -/

/-- A frame whose last two bytes are the CRC of the rest is that rest with its CRC appended. -/
theorem eq_crcAppend_of_crcMatches {s : List Byte} (h : crcMatches s = true) : s = crcAppend (s.take (s.length - 2)) := by
  have h' : s.drop (s.length - 2) = crcBytes (crc16 (s.take (s.length - 2))) := by simpa [crcMatches] using h
  unfold crcAppend
  rw [← h', List.take_append_drop]

/-- The bytes of a decoded frame are the bytes its instruction encodes to. -/
theorem encode_of_decodeFrame {bytes : List Byte} {i : Instr} (h : decodeFrame bytes = .ok i) :
    encode i = .frame bytes := by
  unfold decodeFrame at h
  split at h
  · next sid fc ah al ch cl x y =>
    split at h
    · next hp =>
      split at h
      · next hc =>
        obtain ⟨rfl, rfl, rfl⟩ := hp
        cases h
        have e := eq_crcAppend_of_crcMatches hc
        simp only [encode, encodeRequest, requestHead, hi_join, lo_join]
        exact congrArg Packet.frame e.symm
      · cases h
    · cases h
  · next sid fc n vh vl x y =>
    split at h
    · next hp =>
      split at h
      · next hc =>
        subst hp
        cases h
        have e := eq_crcAppend_of_crcMatches hc
        simp only [encode, encodeResponse, responseHead, hi_join, lo_join]
        exact congrArg Packet.frame e.symm
      · cases h
    · cases h
  · cases h

end Sys2Proof.Machine
end

