-- ==== Sys2Proof/Laws/PerInstr.lean ====
section
/-! SUPPORT. Statements made instruction by instruction. Family `TableRow`: what each instruction encodes to is a word or
frame of its own row of the opcode table. -/

namespace Sys2Proof.Laws.TableRow

open Sys2Proof.Machine

/-- The encoding is a command word that the row's mask and match accept (30_encoding.md R77). -/
def Spells (i : Instr) (mask pat : Word) : Prop := ∃ w, encode i = .word w ∧ w &&& mask = pat

/-- The row of each constructor: mask and match of a command, the bytes of a wire frame (30_encoding.md R77, R83, R84). -/
def Statement (i : Instr) : Prop :=
  match i with
  | .nop => Spells i 0xFFFFFFFF 0x00000000
  | .set _ _ => Spells i 0xFF000000 0x01000000
  | .get _ _ => Spells i 0xFF000000 0x02000000
  | .crcinit => Spells i 0xFFFFFFFF 0x10000000
  | .crcbyte _ => Spells i 0xFF00FFFF 0x11000000
  | .enc _ _ => Spells i 0xFF000000 0x20000000
  | .xact => Spells i 0xFFFFFFFF 0x21000000
  | .dec => Spells i 0xFFFFFFFF 0x22000000
  | .read _ _ => Spells i 0xFF000000 0x30000000
  | .req03 sid addr => ∃ c, c = crc16 [sid, 0x03, Machine.hi addr, lo addr, 0x00, 0x01] ∧
      encode i = .frame [sid, 0x03, Machine.hi addr, lo addr, 0x00, 0x01, lo c, Machine.hi c]
  | .rsp03 sid fc v => ∃ c, c = crc16 [sid, fc, 0x02, Machine.hi v, lo v] ∧
      encode i = .frame [sid, fc, 0x02, Machine.hi v, lo v, lo c, Machine.hi c]

/-- Masking a command word masks its three fields. -/
theorem mkWord_and (op a op' a' : Byte) (imm imm' : Half) :
    mkWord op a imm &&& mkWord op' a' imm' = mkWord (op &&& op') (a &&& a') (imm &&& imm') := by
  have h : (op ++ a) &&& (op' ++ a') = (op &&& op') ++ (a &&& a') := BitVec.and_append
  have h' : ((op ++ a) ++ imm) &&& ((op' ++ a') ++ imm') = ((op ++ a) &&& (op' ++ a')) ++ (imm &&& imm') :=
    BitVec.and_append
  exact h'.trans (by rw [h]; rfl)

/-- A word whose mask is opcode only. -/
theorem mask_op (op a : Byte) (imm : Half) : mkWord op a imm &&& 0xFF000000 = mkWord op 0 0 := by
  rw [show (0xFF000000 : Word) = mkWord 0xFF 0 0 by decide, mkWord_and]
  congr 1 <;> simp
  exact BitVec.and_allOnes

theorem nop : Statement .nop := ⟨_, rfl, by decide⟩

theorem set (a : Byte) (imm : Half) : Statement (.set a imm) := ⟨_, rfl, mask_op _ _ _⟩

theorem get (a : Byte) (imm : Half) : Statement (.get a imm) := ⟨_, rfl, mask_op _ _ _⟩

theorem crcinit : Statement .crcinit := ⟨_, rfl, by decide⟩

theorem crcbyte (a : Byte) : Statement (.crcbyte a) := by
  refine ⟨_, rfl, ?_⟩
  rw [show (0xFF00FFFF : Word) = mkWord 0xFF 0 0xFFFF by decide]
  simp only [Opcode.word, mkWord_and]
  simp [Opcode.code, mkWord]

theorem enc (a : Byte) (imm : Half) : Statement (.enc a imm) := ⟨_, rfl, mask_op _ _ _⟩

theorem xact : Statement .xact := ⟨_, rfl, by decide⟩

theorem dec : Statement .dec := ⟨_, rfl, by decide⟩

theorem read (a : Byte) (imm : Half) : Statement (.read a imm) := ⟨_, rfl, mask_op _ _ _⟩

theorem req03 (sid : Byte) (addr : Half) : Statement (.req03 sid addr) := ⟨_, rfl, rfl⟩

theorem rsp03 (sid fc : Byte) (v : Half) : Statement (.rsp03 sid fc v) := ⟨_, rfl, rfl⟩

end Sys2Proof.Laws.TableRow
end

