-- ==== Sys2Proof/Laws/PollHost.lean ====
section
/-! SUPPORT. What the reference host's functions can do: the answers to a command word, and the entries of a Snapshot. -/

namespace Sys2Proof.Machine

/-! ### The answers to a command word -/

/-- Time and the line bring no answer. -/
theorem answersTo_quiet (c : Word) (b : Bool) (q h : List Event) (hq : ∀ e ∈ q, e.keepsPort = true) :
    answersTo c b (q ++ h) = answersTo c b h := by
  induction q with
  | nil => rfl
  | cons e q ih =>
    have he := hq e (by simp)
    have := ih fun e h => hq e (by simp [h])
    cases e <;> simp_all [answersTo, Event.keepsPort]

/-- Without the command there is no answer to it. -/
theorem answersTo_of_not_mem {c : Word} (h : List Event) (hc : .cmd c ∉ h) : answersTo c false h = [] := by
  induction h with
  | nil => rfl
  | cons e h ih =>
    rw [List.mem_cons, not_or] at hc
    have := ih hc.2
    cases e with
    | cmd w =>
      have hw : (w == c) = false := by simpa using fun e => hc.1 (by rw [e])
      simpa [answersTo, hw] using this
    | _ => simpa [answersTo] using this

/-- What follows a stretch without the command, of which nothing is outstanding, is all that counts. -/
theorem answersTo_append_of_not_mem {c : Word} (g h : List Event) (hc : .cmd c ∉ g)
    (hh : h = [] ∨ ∃ w r, h = .cmd w :: r) (b : Bool) :
    answersTo c b (g ++ h) = answersTo c b g ++ answersTo c false h := by
  induction g generalizing b with
  | nil => rcases hh with rfl | ⟨w, r, rfl⟩ <;> simp [answersTo]
  | cons e g ih =>
    rw [List.mem_cons, not_or] at hc
    cases e <;> simp only [List.cons_append, answersTo, ih hc.2]
    split <;> simp

/-- A response word is next on the port: nothing but time and the line comes before it. -/
theorem next_answer_cons {w : Word} {e : Event} {h : List Event} :
    (∃ q r, e :: h = q ++ .resp w :: r ∧ ∀ x ∈ q, x.keepsPort = true) ↔
      e = .resp w ∨ e.keepsPort = true ∧ ∃ q r, h = q ++ .resp w :: r ∧ ∀ x ∈ q, x.keepsPort = true := by
  constructor
  · rintro ⟨q, r, hq, hk⟩
    cases q with
    | nil => simp_all
    | cons x q =>
      obtain ⟨rfl, rfl⟩ := List.cons.inj hq
      exact .inr ⟨hk e (by simp), q, r, rfl, fun x hx => hk x (by simp [hx])⟩
  · rintro (rfl | ⟨he, q, r, rfl, hk⟩)
    · exact ⟨[], h, rfl, by simp⟩
    · exact ⟨e :: q, r, rfl, by simpa [he] using hk⟩

/-- A command answered later is the first event's, or one of the rest. -/
theorem later_answer_cons {c w : Word} {e : Event} {h : List Event} :
    (∃ p q r, e :: h = p ++ .cmd c :: (q ++ .resp w :: r) ∧ ∀ x ∈ q, x.keepsPort = true) ↔
      (e = .cmd c ∧ ∃ q r, h = q ++ .resp w :: r ∧ ∀ x ∈ q, x.keepsPort = true) ∨
        ∃ p q r, h = p ++ .cmd c :: (q ++ .resp w :: r) ∧ ∀ x ∈ q, x.keepsPort = true := by
  constructor
  · rintro ⟨p, q, r, hp, hk⟩
    cases p with
    | nil =>
      obtain ⟨rfl, rfl⟩ := List.cons.inj hp
      exact .inl ⟨rfl, q, r, rfl, hk⟩
    | cons x p =>
      obtain ⟨rfl, rfl⟩ := List.cons.inj hp
      exact .inr ⟨p, q, r, rfl, hk⟩
  · rintro (⟨rfl, q, r, rfl, hk⟩ | ⟨p, q, r, rfl, hk⟩)
    · exact ⟨[], q, r, rfl, hk⟩
    · exact ⟨e :: p, q, r, rfl, hk⟩

/-- Every answer is a response word with nothing but time and the line since the command, and every such word is one. -/
theorem mem_answersTo_iff {c w : Word} (h : List Event) : ∀ b : Bool, w ∈ answersTo c b h ↔
    (b = true ∧ ∃ q r, h = q ++ .resp w :: r ∧ ∀ x ∈ q, x.keepsPort = true) ∨
    ∃ p q r, h = p ++ .cmd c :: (q ++ .resp w :: r) ∧ ∀ x ∈ q, x.keepsPort = true := by
  induction h with
  | nil => simp [answersTo]
  | cons e h ih =>
    intro b
    rw [next_answer_cons, later_answer_cons]
    cases e with
    | resp u => cases b <;> simp [answersTo, Event.keepsPort, ih, @eq_comm _ u w]
    | _ => simp [answersTo, Event.keepsPort, ih]

/-! ### The Snapshot -/

/-- The addresses of a Snapshot after an assignment: as before, or with the new one at the end. -/
theorem Snapshot.map_fst_put (m : Snapshot) (a v : Half) :
    (m.put a v).map Prod.fst = if a ∈ m.map Prod.fst then m.map Prod.fst else m.map Prod.fst ++ [a] := by
  induction m with
  | nil => simp [Snapshot.put]
  | cons p m ih =>
    obtain ⟨b, u⟩ := p
    by_cases h : b = a
    · simp [Snapshot.put, h]
    · have h' : ¬a = b := fun e => h e.symm
      simp only [Snapshot.put, if_neg h, List.map_cons, ih, List.mem_cons, h', false_or]
      split <;> simp

/-- The entries of a Snapshot after an assignment. -/
theorem Snapshot.mem_put {m : Snapshot} {a v : Half} {p : Half × Half} (h : p ∈ m.put a v) : p = (a, v) ∨ p ∈ m := by
  induction m with
  | nil => simpa [Snapshot.put] using h
  | cons q m ih =>
    obtain ⟨b, u⟩ := q
    by_cases hb : b = a
    · simp only [Snapshot.put, if_pos hb, List.mem_cons] at h ⊢
      tauto
    · simp only [Snapshot.put, if_neg hb, List.mem_cons] at h ⊢
      rcases h with h | h
      · exact .inr (.inl h)
      · rcases ih h with h | h <;> simp [h]

/-- One answer appends at most its own address. -/
theorem Snapshot.map_fst_answer (m : Snapshot) (a : Half) (w : Word) :
    (m.answer a w).map Prod.fst =
      if opField w = Status.ok.code ∧ a ∉ m.map Prod.fst then m.map Prod.fst ++ [a] else m.map Prod.fst := by
  unfold Snapshot.answer
  by_cases h : opField w = Status.ok.code
  · rw [if_pos h, Snapshot.map_fst_put]
    by_cases ha : a ∈ m.map Prod.fst <;> simp [h, ha]
  · simp [h]

/-- An entry after one answer is that answer's, a success, or was there before. -/
theorem Snapshot.mem_answer {m : Snapshot} {a : Half} {w : Word} {p : Half × Half} (h : p ∈ m.answer a w) :
    (p = (a, immField w) ∧ opField w = 0x00) ∨ p ∈ m := by
  unfold Snapshot.answer at h
  split at h
  · next hw => exact (Snapshot.mem_put h).imp (fun h => ⟨h, hw⟩) id
  · exact .inr h

/-- The answers to one address append at most that address, and do when one of them is a success. -/
theorem Snapshot.map_fst_answers (ws : List Word) (m : Snapshot) (a : Half) :
    (ws.foldl (fun m w => m.answer a w) m).map Prod.fst =
      if (∃ w ∈ ws, opField w = Status.ok.code) ∧ a ∉ m.map Prod.fst then m.map Prod.fst ++ [a]
      else m.map Prod.fst := by
  induction ws generalizing m with
  | nil => simp
  | cons w ws ih =>
    rw [List.foldl_cons, ih, Snapshot.map_fst_answer]
    by_cases hw : opField w = Status.ok.code <;> by_cases ha : a ∈ m.map Prod.fst <;> simp [hw, ha]

/-- An entry after the answers to one address is the value of a success among them, or was there before. -/
theorem Snapshot.mem_answers (ws : List Word) {m : Snapshot} {a : Half} {p : Half × Half}
    (h : p ∈ ws.foldl (fun m w => m.answer a w) m) :
    (p.1 = a ∧ ∃ w ∈ ws, opField w = 0x00 ∧ immField w = p.2) ∨ p ∈ m := by
  induction ws generalizing m with
  | nil => exact .inr h
  | cons w ws ih =>
    rcases ih h with ⟨h1, u, hu, h2⟩ | h
    · exact .inl ⟨h1, u, by simp [hu], h2⟩
    · rcases Snapshot.mem_answer h with ⟨rfl, hw⟩ | h
      · exact .inl ⟨rfl, w, by simp, hw, rfl⟩
      · exact .inr h

end Sys2Proof.Machine
end

