-- ==== Sys2Proof/Laws/Step.lean ====
section
/-! SUPPORT. What a step can do, said once, and runs of many steps: every invariant and every run is proved from these. -/

namespace Sys2Proof.Machine

/-- A decoded frame's meaning is the arrival of its bytes. -/
theorem exec_of_decodeFrame {bytes : List Byte} {i : Instr} (h : decodeFrame bytes = .ok i) (s : State) :
    exec i s = .next (s.arrive bytes) := by
  have e := encode_of_decodeFrame h
  cases i <;> simp only [encode, Packet.frame.injEq, reduceCtorEq] at e <;> subst e <;> rfl

/-- The LINE agent's turn, whether or not its bytes are a frame of the table. -/
theorem step_line {s : State} {bytes : List Byte} (h : s.turn = .line bytes) :
    step s = .next (s.startTurn.arrive bytes) := by
  unfold step plan
  rw [h]
  simp only [lineTurn]
  cases hd : decodeFrame bytes with
  | ok i => exact exec_of_decodeFrame hd _
  | error e => rfl

theorem step_tick {s : State} (h : s.turn = .tick) : step s = .next s.startTurn.tickEvent := by
  simp [step, plan, h]

theorem step_reset {s : State} (h : s.turn = .reset) : step s = .next s.startTurn.resetEvent := by
  simp [step, plan, h]

/-- The block's turn outside `IDLE`. -/
theorem step_busy {s : State} (h : s.turn = .block) (hs : s.seq ≠ .idle) :
    step s = .next (sequencerStep s.startTurn) := by
  have e : blockTurn s.startTurn = .move (sequencerStep s.startTurn) := by
    unfold blockTurn
    split
    · next hi _ => exact absurd hi hs
    · rfl
  simp [step, plan, h, e]

/-- The block's turn in `IDLE` with nothing on the port. -/
theorem step_idle {s : State} (h : s.turn = .block) (hs : s.seq = .idle) (hc : s.hostCmds = []) :
    step s = .next s.startTurn := by
  simp [step, plan, blockTurn, h, hs, State.cmdWord, hc, sequencerStep]

/-- The block's turn in `IDLE` with a legal command on the port: the decoded instruction runs. -/
theorem step_accept {s : State} {w : Word} {ws : List Word} {i : Instr} (h : s.turn = .block) (hs : s.seq = .idle)
    (hc : s.hostCmds = w :: ws) (hd : decodeCommand s.params.rxcap w = .ok i) :
    step s = exec i (s.startTurn.accept w) := by
  simp [step, plan, blockTurn, h, hs, State.cmdWord, hc, hd]

/-- The block's turn in `IDLE` with an illegal word on the port. -/
theorem step_illegal {s : State} {w : Word} {ws : List Word} {e : Reject} (h : s.turn = .block) (hs : s.seq = .idle)
    (hc : s.hostCmds = w :: ws) (hd : decodeCommand s.params.rxcap w = .error e) :
    step s = .next (answerIllegal (s.startTurn.accept w)) := by
  simp [step, plan, blockTurn, h, hs, State.cmdWord, hc, hd]

/-- Every step is one of these seven. -/
theorem step_cases (s : State) :
    (s.turn = .tick ∧ step s = .next s.startTurn.tickEvent) ∨
    (s.turn = .reset ∧ step s = .next s.startTurn.resetEvent) ∨
    (∃ bytes, s.turn = .line bytes ∧ step s = .next (s.startTurn.arrive bytes)) ∨
    (s.turn = .block ∧ s.seq = .idle ∧ s.hostCmds = [] ∧ step s = .next s.startTurn) ∨
    (∃ w ws e, s.turn = .block ∧ s.seq = .idle ∧ s.hostCmds = w :: ws ∧
      decodeCommand s.params.rxcap w = .error e ∧ step s = .next (answerIllegal (s.startTurn.accept w))) ∨
    (∃ w ws i, s.turn = .block ∧ s.seq = .idle ∧ s.hostCmds = w :: ws ∧
      decodeCommand s.params.rxcap w = .ok i ∧ step s = exec i (s.startTurn.accept w)) ∨
    (s.turn = .block ∧ s.seq ≠ .idle ∧ step s = .next (sequencerStep s.startTurn)) := by
  cases ht : s.turn with
  | tick => exact .inl ⟨rfl, step_tick ht⟩
  | reset => exact .inr (.inl ⟨rfl, step_reset ht⟩)
  | line bytes => exact .inr (.inr (.inl ⟨bytes, rfl, step_line ht⟩))
  | block =>
    by_cases hs : s.seq = .idle
    · cases hc : s.hostCmds with
      | nil => exact .inr (.inr (.inr (.inl ⟨rfl, hs, rfl, step_idle ht hs hc⟩)))
      | cons w ws =>
        cases hd : decodeCommand s.params.rxcap w with
        | error e => exact .inr (.inr (.inr (.inr (.inl ⟨w, ws, e, rfl, hs, rfl, hd, step_illegal ht hs hc hd⟩))))
        | ok i => exact .inr (.inr (.inr (.inr (.inr (.inl ⟨w, ws, i, rfl, hs, rfl, hd, step_accept ht hs hc hd⟩)))))
    · exact .inr (.inr (.inr (.inr (.inr (.inr ⟨rfl, hs, step_busy ht hs⟩)))))

/-- What a step can do, read off its next state; the instruction it ran, if it ran one, is the one fetched. -/
theorem step_inv {s t : State} (h : step s = .next t) :
    (s.turn = .tick ∧ t = s.startTurn.tickEvent) ∨
    (s.turn = .reset ∧ t = s.startTurn.resetEvent) ∨
    (∃ bytes, s.turn = .line bytes ∧ t = s.startTurn.arrive bytes) ∨
    (s.turn = .block ∧ s.seq = .idle ∧ s.hostCmds = [] ∧ t = s.startTurn) ∨
    (∃ w ws e, s.turn = .block ∧ s.seq = .idle ∧ s.hostCmds = w :: ws ∧
      decodeCommand s.params.rxcap w = .error e ∧ t = answerIllegal (s.startTurn.accept w)) ∨
    (∃ w ws i, s.turn = .block ∧ s.seq = .idle ∧ s.hostCmds = w :: ws ∧
      decodeCommand s.params.rxcap w = .ok i ∧ exec i (s.startTurn.accept w) = .next t ∧ fetched s = some i) ∨
    (s.turn = .block ∧ s.seq ≠ .idle ∧ t = sequencerStep s.startTurn) := by
  rcases step_cases s with ⟨a, b⟩ | ⟨a, b⟩ | ⟨x, a, b⟩ | ⟨a, c, d, b⟩ | ⟨w, ws, e, a, c, d, g, b⟩ |
    ⟨w, ws, i, a, c, d, g, b⟩ | ⟨a, c, b⟩
  · rw [b] at h; cases h; exact .inl ⟨a, rfl⟩
  · rw [b] at h; cases h; exact .inr (.inl ⟨a, rfl⟩)
  · rw [b] at h; cases h; exact .inr (.inr (.inl ⟨x, a, rfl⟩))
  · rw [b] at h; cases h; exact .inr (.inr (.inr (.inl ⟨a, c, d, rfl⟩)))
  · rw [b] at h; cases h; exact .inr (.inr (.inr (.inr (.inl ⟨w, ws, e, a, c, d, g, rfl⟩))))
  · rw [b] at h
    refine .inr (.inr (.inr (.inr (.inr (.inl ⟨w, ws, i, a, c, d, g, h, ?_⟩)))))
    simp [fetched, plan, blockTurn, a, c, d, State.cmdWord, g]
  · rw [b] at h; cases h; exact .inr (.inr (.inr (.inr (.inr (.inr ⟨a, c, rfl⟩)))))

/-- Whose turn it is, by the head of the schedule. -/
theorem turn_of_head? {s : State} {x : Turn} (h : s.schedule.head? = some x) : s.turn = x := by
  unfold State.turn
  cases hs : s.schedule with
  | nil => rw [hs] at h; cases h
  | cons a l => rw [hs] at h; simpa using h

/-- The head of the schedule, by whose turn it is. -/
theorem head?_of_turn {s : State} {x : Turn} (h : s.turn = x) (hx : x ≠ .block) : s.schedule.head? = some x := by
  unfold State.turn at h
  cases hs : s.schedule with
  | nil => rw [hs] at h; exact absurd h.symm hx
  | cons a l => rw [hs] at h; simpa using h

/-- It is the block's turn exactly when the schedule says so or says nothing. -/
theorem turn_eq_block_iff {s : State} :
    s.turn = .block ↔ s.schedule.head? = none ∨ s.schedule.head? = some .block := by
  unfold State.turn
  cases s.schedule <;> simp

/-! ### What an instruction can do -/

/-- The form of the next state of every instruction, one case per row and outcome. -/
theorem exec_inv {i : Instr} {s t : State} (h : exec i s = .next t) :
    (i = .nop ∧ t = s.respond .ok 0) ∨
    (∃ r imm, i = .set r.index imm ∧ setLegal r.index imm = true ∧ t = (setData r imm s).respond .ok imm) ∨
    (∃ r imm d, i = .get r.index imm ∧ getData r imm s = .ok d ∧ t = s.respond .ok d) ∨
    (∃ a imm, (i = .set a imm ∨ i = .get a imm) ∧ t = s.raise .illegalCommand) ∨
    (∃ a imm, i = .get a imm ∧ t = s.raise .noData) ∨
    (i = .crcinit ∧ t = { s with crcacc := Config.crcInit }.respond .ok Config.crcInit) ∨
    (∃ a, i = .crcbyte a ∧ t = { s with crcacc := crcStep s.crcacc a }.respond .ok (crcStep s.crcacc a)) ∨
    (∃ a imm d, i = .enc a imm ∧
      t = ({ s with slaveId := a, regAddr := imm }.storeRequest a imm).setTxvalid.respond .ok d) ∨
    (i = .xact ∧ s.txvalid = true ∧ t = { s with cmdop := .xact, seq := .txen }) ∨
    (i = .xact ∧ s.txvalid = false ∧ t = s.raise .noFrame) ∨
    (∃ v, i = .dec ∧ decodeResponse s.reception = .ok v ∧ t = s.clearOk.deliver v) ∨
    (∃ d, i = .dec ∧ decodeResponse s.reception = .error d ∧ t = s.clearOk.raise (.decode d)) ∨
    (∃ a imm, i = .read a imm ∧
      t = { ({ s with slaveId := a, regAddr := imm }.storeRequest a imm).setTxvalid.clearOk with
            attempts := 0, retryLeft := s.retryCount, cmdop := .read, seq := .txen }) ∨
    (∃ bytes, encode i = .frame bytes ∧ t = s.arrive bytes) := by
  cases i with
  | nop => cases h; simp
  | set a imm =>
    simp only [exec, execSet] at h
    split at h
    · cases h; simp
    · next r hr =>
      have e := index_of_ofIndex hr
      subst e
      split at h
      · next hl => cases h; exact .inr (.inl ⟨r, imm, rfl, hl, rfl⟩)
      · cases h; simp
  | get a imm =>
    simp only [exec, execGet] at h
    split at h
    · cases h; simp
    · next r hr =>
      have e := index_of_ofIndex hr
      subst e
      split at h
      · split at h
        · next d hd => cases h; exact .inr (.inr (.inl ⟨r, imm, d, rfl, hd, rfl⟩))
        · next e he => cases h; rw [getData_error he]; simp
      · cases h; simp
  | crcinit => cases h; simp
  | crcbyte a => cases h; simp
  | enc a imm =>
    cases h
    exact .inr (.inr (.inr (.inr (.inr (.inr (.inr (.inl ⟨a, imm, _, rfl, rfl⟩)))))))
  | xact =>
    simp only [exec, execXact] at h
    split at h
    · next hv => cases h; simp [hv]
    · next hv => cases h; simp [hv]
  | dec =>
    simp only [exec, execDec] at h
    split at h
    · next v hv => cases h; simp [hv]
    · next d hd => cases h; simp [hd]
  | read a imm => cases h; simp
  | req03 sid addr => cases h; simp [encode]
  | rsp03 sid fc v => cases h; simp [encode]

/-! ### Runs -/

/-- A run of `m + n` steps is a run of `m` and then one of `n`. -/
theorem run_add {m : Nat} {s t : State} (h : run m s = .next t) (n : Nat) : run (m + n) s = run n t := by
  induction m generalizing s with
  | zero =>
    simp only [run, Host.Outcome.next.injEq] at h
    rw [h, Nat.zero_add]
  | succ m ih =>
    rw [Nat.succ_add]
    simp only [run] at h ⊢
    split at h
    · next u hu => exact ih h
    · cases h
    · cases h

/-- One step, then the rest. -/
theorem run_succ {s t : State} (h : step s = .next t) (n : Nat) : run (n + 1) s = run n t := by
  simp [run, h]

/-- What every step keeps, every run keeps. -/
theorem run_keeps {P : State → Prop} (hP : ∀ s t, P s → step s = .next t → P t) {n : Nat} {s t : State} (hs : P s)
    (h : run n s = .next t) : P t := by
  induction n generalizing s with
  | zero => cases h; exact hs
  | succ n ih =>
    simp only [run] at h
    split at h
    · next u hu => exact ih (hP s u hs hu) h
    · cases h
    · cases h

/-- A command port word never decodes to a frame of the line. -/
theorem not_frame_of_decodeCommand {cap : Nat} {w : Word} {i : Instr} (h : decodeCommand cap w = .ok i)
    (bytes : List Byte) : encode i ≠ .frame bytes := by
  intro e
  unfold decodeCommand at h
  split at h
  · cases h
  · next o _ =>
    split at h
    · cases o <;> simp only [Opcode.withOperands] at h
      all_goals first | (cases h; simp [encode] at e) | (split at h <;> cases h; simp [encode] at e)
    · cases h

end Sys2Proof.Machine
end

