-- ==== Sys2Proof/Laws/Runs.lean ====
section
/-! SUPPORT. Runs through a wait and through one transaction on the line, from which whole commands are put together. -/

namespace Sys2Proof.Machine

/-- The bytes of turns in a row. -/
@[simp] theorem bytesIn_append (xs ys : List Turn) : bytesIn (xs ++ ys) = bytesIn xs ++ bytesIn ys := List.flatMap_append

/-- A turn of the block brings no byte. -/
@[simp] theorem bytesIn_block (ts : List Turn) : bytesIn (.block :: ts) = bytesIn ts := rfl

@[simp] theorem bytesIn_nil : bytesIn [] = [] := rfl

/-- The bytes of a transaction's turns, by what comes before each step. -/
theorem bytesIn_turns (x : Sending) :
    bytesIn x.turns = bytesIn x.enable ++ bytesIn x.write ++ bytesIn x.settle ++ bytesIn x.wait := by
  simp [Sending.turns]

/-- Turns of TIME and LINE while the block does not wait: they move `LINE_RX` and the history only. -/
theorem run_gap (ts : List Turn) : ∀ {s : State} {rest : List Turn}, s.waiting = false → s.schedule = ts ++ rest →
    waitTurns 0 ts = true → s.rsp = none →
    run ts.length s = .next { s with
      schedule := rest
      lineRx := s.lineRx ++ bytesIn ts
      history := s.history ++ eventsIn ts } := by
  induction ts with
  | nil =>
    intro s rest _ hs _ _
    cases s
    simp_all [run, bytesIn, eventsIn]
  | cons x ts ih =>
    intro s rest hw hs hf hr
    have hturn : s.turn = x := by simp [State.turn, hs]
    cases x with
    | block => simp [waitTurns] at hf
    | reset => simp [waitTurns] at hf
    | tick =>
      have ht : s.startTurn.tickEvent.timer = s.timer := tickEvent_timer_of_not_waiting (s := s.startTurn) hw
      rw [List.length_cons, run_succ (step_tick hturn),
        ih (s := s.startTurn.tickEvent) (rest := rest) hw (by simp [hs]) hf rfl, ht]
      simp [bytesIn, eventsIn, hr]
    | line bytes =>
      rw [List.length_cons, run_succ (step_line hturn),
        ih (s := s.startTurn.arrive bytes) (rest := rest) hw (by simp [hs]) hf rfl]
      simp [bytesIn, eventsIn, hr]

/-- A whole wait: `TIMER` ends at 0, `LINE_RX` gains the bytes and the history both, and nothing else moves (10_state.md
R29, 20_memory.md R59). -/
theorem run_wait (ts : List Turn) : ∀ {s : State} {rest : List Turn}, s.waiting = true → s.schedule = ts ++ rest →
    waitTurns s.timer.toNat ts = true → s.rsp = none →
    run ts.length s = .next { s with
      schedule := rest
      timer := 0
      lineRx := s.lineRx ++ bytesIn ts
      history := s.history ++ eventsIn ts } := by
  induction ts with
  | nil =>
    intro s rest _ hs hf _
    have ht : s.timer = 0 := BitVec.eq_of_toNat_eq (by simpa [waitTurns] using hf)
    cases s
    simp_all [run, bytesIn, eventsIn]
  | cons x ts ih =>
    intro s rest hw hs hf hr
    have hturn : s.turn = x := by simp [State.turn, hs]
    cases x with
    | reset => simp [waitTurns] at hf
    | block =>
      simp only [waitTurns, Bool.and_eq_true, bne_iff_ne, ne_eq] at hf
      have hi : s.seq ≠ .idle := by
        rcases (waiting_iff s).1 hw with h | h | h <;> simp [h]
      have ht : s.timer ≠ 0#16 := fun h => hf.1 (by rw [h]; rfl)
      have e : sequencerStep s.startTurn = s.startTurn := sequencerStep_of_waiting hw ht
      rw [List.length_cons, run_succ (step_busy hturn hi), e,
        ih (s := s.startTurn) (rest := rest) hw (by simp [hs]) hf.2 rfl]
      simp [bytesIn, eventsIn, hr]
    | tick =>
      have ht : s.startTurn.tickEvent.timer.toNat = s.timer.toNat - 1 := toNat_tickEvent_timer (s := s.startTurn) hw
      rw [List.length_cons, run_succ (step_tick hturn),
        ih (s := s.startTurn.tickEvent) (rest := rest) hw (by simp [hs]) (by rw [ht]; exact hf) rfl]
      simp [bytesIn, eventsIn, hr]
    | line bytes =>
      rw [List.length_cons, run_succ (step_line hturn),
        ih (s := s.startTurn.arrive bytes) (rest := rest) hw (by simp [hs]) hf rfl]
      simp [bytesIn, eventsIn, hr]

/-- One transaction from `TXEN` to its `RxRead` (42_transceiver.md R136 to R140), under any turns of TIME and LINE before
each of its four steps and any turns of the block inside its two waits. -/
theorem run_sending {s : State} {x : Sending} {rest : List Turn} (hs : s.seq = .txen)
    (hsch : s.schedule = x.turns ++ rest) (hr : s.rsp = none) (hf : x.fits s.tSettle s.tResp = true) :
    run x.turns.length s = .next (stepRxRead { s with
      de := false
      attempts := if s.cmdop = .read then s.attempts + 1 else s.attempts
      seq := .rxwait
      timer := 0
      lineTx := s.lineTx ++ [s.request]
      lineRx := s.lineRx ++ bytesIn x.turns
      history := s.history ++ eventsIn x.enable ++ [.dir true] ++ eventsIn x.write ++ [.tx s.request] ++
        eventsIn x.settle ++ [.dir false] ++ eventsIn x.wait
      schedule := rest }) := by
  simp only [Sending.fits, Bool.and_eq_true] at hf
  obtain ⟨⟨⟨h1, h2⟩, h3⟩, h4⟩ := hf
  have hl : x.turns.length =
      x.enable.length + ((x.write.length + ((x.settle.length + ((x.wait.length + 1) + 1)) + 1)) + 1) := by
    simp [Sending.turns]
  rw [bytesIn_turns, hl]
  simp only [Sending.turns, List.append_assoc, List.cons_append] at hsch
  rw [run_add (run_gap x.enable (by simp [State.waiting, hs]) hsch h1 hr),
    run_succ (step_busy (by simp [State.turn]) (by simp [hs]))]
  simp only [sequencerStep, State.startTurn_seq, hs, stepDirOn, State.setDirection]
  rw [run_add (run_gap x.write (by simp [State.waiting]) (by simp; rfl) h2 (by simp)),
    run_succ (step_busy (by simp [State.turn]) (by simp))]
  simp only [sequencerStep, State.startTurn_seq, stepTx, State.lineWrite]
  rw [run_add (run_wait x.settle (by simp [State.waiting]) (by simp; rfl) (by simpa using h3) (by simp)),
    run_succ (step_busy (by simp [State.turn]) (by simp))]
  simp only [sequencerStep, State.startTurn_seq, State.startTurn_timer, stepDirOff, State.setDirection]
  rw [run_add (run_wait x.wait (by simp [State.waiting]) (by simp; rfl) (by simpa using h4) (by simp)),
    run_succ (step_busy (by simp [State.turn]) (by simp))]
  simp only [sequencerStep, State.startTurn_seq, State.startTurn_timer]
  simp [State.request, hr, run]
  rfl

end Sys2Proof.Machine
end

