-- ==== Sys2Proof/Tests/Slice0.lean ====
section
/-! SUPPORT. The model's own tests. Expected words, frames and answers are those of spec/95_test_vectors.md, named by
their id (S, V, P); the witnesses at the end show, for each statement with hypotheses, states and operands that meet
them. -/

namespace Sys2Proof.Tests

-- One test at a time: many kernel evaluations waiting at once exhaust the memory for threads.
set_option Elab.async false

open Sys2Proof Sys2Proof.Machine Sys2Proof.Claims

/-! ### Frames and states -/

/-- V10, S1: the request of slave 1 for register 4096. -/
def reqBytes : List Byte := [0x01, 0x03, 0x10, 0x00, 0x00, 0x01, 0x80, 0xCA]

/-- V20, S2: the response that carries 42. -/
def rspBytes : List Byte := [0x01, 0x03, 0x02, 0x00, 0x2A, 0x39, 0x9B]

/-- V23: the same with one bit flipped. -/
def badBytes : List Byte := [0x01, 0x03, 0x02, 0x00, 0x2B, 0x39, 0x9B]

/-- V37: an exception response, five bytes with a good CRC. -/
def excBytes : List Byte := [0x01, 0x83, 0x02, 0xC0, 0xF1]

/-- A buffer that holds these bytes from index 0. -/
def cells (bytes : List Byte) : Memory := Memory.writeBytes [] 0 bytes

/-- After `ENC 1, 4096` (V10). -/
def encoded : State :=
  { State.reset with slaveId := 1, regAddr := 0x1000, txbuf := cells reqBytes, txvalid := true }

/-- `encoded`, with `bytes` as the last reception. -/
def heard (bytes : List Byte) : State :=
  { encoded with rxbuf := cells bytes, rxlen := BitVec.ofNat 16 bytes.length }

/-- `encoded` with the sequencer somewhere else, in a command `op`. -/
def inSeq (q : Seq) (op : CmdOp) : State := { encoded with seq := q, cmdop := op }

/-- A READ of slave 1, register 4096 in `EVAL` after it heard `bytes`, with `left` attempts left. -/
def judging (bytes : List Byte) (left : Byte) : State :=
  { heard bytes with seq := .eval, cmdop := .read, retryCount := left, retryLeft := left, attempts := 1 }

/-- `s` with the host presenting `w`. -/
def hosted (w : Word) (s : State) : State := { s with hostCmds := [w] }

/-- `s` with `ts` as the schedule. -/
def scheduled (ts : List Turn) (s : State) : State := { s with schedule := ts }

/-- One field of the next state. -/
def look {α : Type} (f : State → α) (r : Result) : Option α :=
  match r with
  | .next t => some (f t)
  | .fault _ => none
  | .refused _ => none

/-- A field of a next state that is looked at is the field of a next state. -/
theorem exists_of_look {α : Type} {f : State → α} {r : Result} {a : α} (h : look f r = some a) :
    ∃ t, r = .next t ∧ f t = a := by
  cases r with
  | next t => exact ⟨t, rfl, Option.some.inj h⟩
  | fault e => cases h
  | refused e => cases h

/-- The response of the first step after reset with the command word `w` placed. -/
def firstAnswer (w : Nat) : Option (Option Word) := look State.rsp (step (State.reset.withFetchWord 32 w))

/-! ### Decoding: a word or frame of every row -/

theorem test_decode_nop_V50 : decodeTableWord 32 0x00000000 = some .nop := by decide +kernel
theorem test_decode_set_V57 : decodeTableWord 32 0x010200FF = some (.set 0x02 255) := by decide +kernel
theorem test_decode_get_V63 : decodeTableWord 32 0x02200007 = some (.get 0x20 7) := by decide +kernel
theorem test_decode_crcinit_V52 : decodeTableWord 32 0x10000000 = some .crcinit := by decide +kernel
theorem test_decode_crcbyte_V54 : decodeTableWord 32 0x11AB0000 = some (.crcbyte 0xAB) := by decide +kernel
theorem test_decode_enc_V17 : decodeTableWord 32 0x20F71234 = some (.enc 247 0x1234) := by decide +kernel
theorem test_decode_xact_V66 : decodeTableWord 32 0x21000000 = some .xact := by decide +kernel
theorem test_decode_dec_V67 : decodeTableWord 32 0x22000000 = some .dec := by decide +kernel
theorem test_decode_read_P3 : decodeTableWord 32 0x30011006 = some (.read 1 4102) := by decide +kernel
theorem test_decode_req03_V10 : decodeTableWord 64 0xCA80010000100301 = some (.req03 1 4096) := by decide +kernel
theorem test_decode_rsp03_V21 : decodeTableWord 56 0x33B53412020301 = some (.rsp03 1 3 0x1234) := by decide +kernel

/-- V51, V53, V55, V68, V69: reserved opcodes and nonzero must-be-zero fields. -/
theorem test_decode_rejects : ∀ w ∈ [0x00000001, 0x10010000, 0x11AB0001, 0x03000000, 0xFFFFFFFF],
    decodeTableWord 32 w = none := by decide +kernel

/-- V23, V36: a frame whose CRC or whose fixed byte is wrong is no frame of the table. -/
theorem test_frame_rejects : decodeFrame badBytes = .error .frameCrc ∧
    decodeFrame [0x01, 0x03, 0x03, 0x00, 0x2A, 0x68, 0x5B] = .error .framePattern ∧
    decodeFrame excBytes = .error (.frameLength 5) := by decide +kernel

/-! ### WellFormed: an ill-formed term for each check, and its refusal -/

/-- 30_encoding.md R79: SET of a read-only or reserved index (V59). -/
theorem test_wf_set_index : (Instr.set 0x12 0).wf 256 = false ∧ (Instr.set 0x04 0).wf 256 = false ∧
    decodeTableWord 32 0x01120000 = none := by decide +kernel

/-- 30_encoding.md R79: SET RETRY_COUNT above 255 (V58). -/
theorem test_wf_set_value : (Instr.set 0x02 256).wf 256 = false ∧ decodeTableWord 32 0x01020100 = none := by
  decide +kernel

/-- 30_encoding.md R79: GET of a reserved index (V62). -/
theorem test_wf_get_index : (Instr.get 0x04 0).wf 256 = false ∧ decodeTableWord 32 0x02040000 = none := by
  decide +kernel

/-- 30_encoding.md R79: GET of a register with a nonzero `imm` (V61). -/
theorem test_wf_get_imm : (Instr.get 0x01 1).wf 256 = false ∧ decodeTableWord 32 0x02010001 = none := by
  decide +kernel

/-- 30_encoding.md R79: GET TXBUF[8] (V64). -/
theorem test_wf_get_txbuf : (Instr.get 0x20 8).wf 256 = false ∧ decodeTableWord 32 0x02200008 = none := by
  decide +kernel

/-- 30_encoding.md R79: GET RXBUF at `RXCAP`. -/
theorem test_wf_get_rxbuf : (Instr.get 0x30 256).wf 256 = false ∧ decodeTableWord 32 0x02300100 = none := by
  decide +kernel

/-! ### The functions -/

/-- V1 to V8. -/
theorem test_crc16 : crc16 [] = 0xFFFF ∧ crc16 [0x00] = 0x40BF ∧ crc16 [0xFF] = 0x00FF ∧
    crc16 [0x31, 0x32, 0x33, 0x34, 0x35, 0x36, 0x37, 0x38, 0x39] = 0x4B37 ∧
    crc16 [0x01, 0x03, 0x10, 0x00, 0x00, 0x01] = 0xCA80 ∧ crc16 [0x01, 0x03, 0x02, 0x00, 0x2A] = 0x9B39 := by
  decide +kernel

/-- V19. -/
theorem test_encode_V19 : encodeRequest 255 65535 = [0xFF, 0x03, 0xFF, 0xFF, 0x00, 0x01, 0x91, 0xF0] := by
  decide +kernel

/-- V20, V28, V30, V35, V36, V40. -/
theorem test_decodeResponse : decodeResponse rspBytes = .ok 42 ∧
    decodeResponse [0x01, 0x03, 0x02, 0x00] = .error .tooShort ∧
    decodeResponse [0x01, 0x03, 0x02, 0x00, 0x2A, 0x39] = .error .badCrc ∧
    decodeResponse [0x01, 0x03, 0x00, 0x20, 0xF0] = .error .unexpectedLength ∧
    decodeResponse [0x01, 0x03, 0x03, 0x00, 0x2A, 0x68, 0x5B] = .error .unexpectedLength ∧
    decodeResponse [0x02, 0x03, 0x02, 0x00, 0x2A, 0x7D, 0x9B] = .ok 42 := by
  decide +kernel

/-- Log 7: a block's read of a byte that holds a value involves no free value. -/
theorem test_reception : (heard rspBytes).reception = rspBytes := by decide +kernel

/-! ### One step of each instruction -/

theorem test_nop_V50 : firstAnswer 0x00000000 = some (some 0x00000000) := by decide +kernel
theorem test_illegal_V58 : firstAnswer 0x01020100 = some (some 0xE0000000) := by decide +kernel
theorem test_set_V56 : firstAnswer 0x01000014 = some (some 0x00000014) := by decide +kernel
theorem test_set_V57 : look State.retryCount (exec (.set 0x02 255) State.reset) = some 255 := by decide +kernel
theorem test_get_V60 : firstAnswer 0x02010000 = some (some 0x00000064) := by decide +kernel

/-- V93, first two. -/
theorem test_get_V93 : look State.rsp (exec (.get 0x30 4) (heard rspBytes)) = some (some 0x0000002A) ∧
    look State.rsp (exec (.get 0x30 7) (heard rspBytes)) = some (some 0xE2000000) := by decide +kernel

theorem test_crcinit_V52 : firstAnswer 0x10000000 = some (some 0x0000FFFF) := by decide +kernel
theorem test_crcbyte_V54 : firstAnswer 0x11AB0000 = some (some 0x0000FFFE) := by decide +kernel
theorem test_enc_V17 : firstAnswer 0x20F71234 = some (some 0x00002AD4) := by decide +kernel
theorem test_enc_V10 : look State.txbuf (exec (.enc 1 4096) State.reset) = some (cells reqBytes) := by decide +kernel
theorem test_xact_V66 : firstAnswer 0x21000000 = some (some 0xE1000000) := by decide +kernel
theorem test_xact_starts : look State.seq (exec .xact encoded) = some .txen := by decide +kernel
theorem test_dec_V67 : firstAnswer 0x22000000 = some (some 0x01000000) := by decide +kernel
theorem test_dec_V20 : look State.rsp (exec .dec (heard rspBytes)) = some (some 0x0000002A) := by decide +kernel

/-- 43_register_reader.md R156 at the reset state. -/
theorem test_read_starts : look State.txbuf (exec (.read 1 4096) State.reset) = some (cells reqBytes) ∧
    look State.seq (exec (.read 1 4096) State.reset) = some .txen := by decide +kernel

theorem test_req03_echo : look State.lineRx (step (State.reset.withFetchWord 64 0xCA80010000100301)) = some reqBytes := by
  decide +kernel

theorem test_rsp03_V21 : look State.lineRx (step (State.reset.withFetchWord 56 0x33B53412020301)) =
    some [0x01, 0x03, 0x02, 0x12, 0x34, 0xB5, 0x33] := by decide +kernel

/-! ### The sequencer -/

/-- V76: `RXCAP = 8` and nine bytes in the window. -/
theorem test_rxread_V76 :
    let p : Params := { Params.standard with rxcap := 8, rxcap_legal := by decide }
    let s := { inSeq .rxwait .xact with params := p, lineRx := [1, 2, 3, 4, 5, 6, 7, 8, 9] }
    look State.rsp (step s) = some (some 0x00000008) ∧ look State.rxovf (step s) = some true ∧
      look State.rxbuf (step s) = some (cells [1, 2, 3, 4, 5, 6, 7, 8]) := by decide +kernel

/-- V80, V81, V83. -/
theorem test_eval_V80 : look State.rsp (step (judging rspBytes 0)) = some (some 0x0000002A) ∧
    look State.rsp (step (judging [] 0)) = some (some 0x10000000) ∧
    look State.rsp (step (judging badBytes 0)) = some (some 0x12000000) := by decide +kernel

/-- P3: `Eval` with an attempt left. -/
theorem test_eval_P3 :
    let r := step { judging [] 1 with retryDelay := 20 }
    look State.rsp r = some none ∧ look State.timer r = some 20 ∧ look State.retryLeft r = some 0 ∧
      look State.seq r = some .rdelay := by decide +kernel

/-- P6: `Reset` in the settle wait. -/
theorem test_reset_P6 :
    let r := step (scheduled [.reset] { inSeq .settle .xact with timer := 7, de := true })
    look State.seq r = some .idle ∧ look State.de r = some false ∧ look State.txvalid r = some false ∧
      look State.rsp r = some none := by decide +kernel

/-! ### The poll cycle -/

/-- A READ of slave 1 that is answered at once, or cancelled. -/
def asked (addr : Half) (answer : Option Word) : Exchange := ⟨addr, [], answer, []⟩

/-- S7, P4. -/
theorem test_poll_P4 : snapshotOf 1 [4096, 4102, 4110, 4200]
    ([asked 4096 (some 0x0000002A), asked 4102 (some 0x10000000), asked 4110 (some 0x00000141),
      asked 4200 (some 0x12000000)].flatMap (Exchange.events 1)) = [(4096, 42), (4110, 321)] := by decide +kernel

/-- S8. -/
theorem test_poll_S8 : published (snapshotOf 1 [4096, 4102]
    ([asked 4096 (some 0x10000000), asked 4102 (some 0x10000000)].flatMap (Exchange.events 1))) = none := by
  decide +kernel

/-- 70_reset_and_hazards.md R236 with P4's values: a cancelled READ leaves its own address out. -/
theorem test_poll_cancelled : snapshotOf 1 [4096, 4102, 4110]
    ([asked 4096 (some 0x0000002A), asked 4102 none, asked 4110 (some 0x00000141)].flatMap (Exchange.events 1)) =
      [(4096, 42), (4110, 321)] := by decide +kernel

/-! ### Witnesses: hypotheses that can be met -/

theorem witness_DecodeOfEncode : ∀ i ∈ [Instr.nop, .set 0x00 0xFFFF, .set 0x02 255, .set 0x03 0, .get 0x17 0, .get 0x20 7,
    .get 0x30 255, .crcinit, .crcbyte 0xFF, .enc 0xFF 0xFFFF, .xact, .dec, .read 0 0, .req03 0xFF 0xFFFF,
    .rsp03 0xFF 0xFF 0xFFFF], i.wf 256 = true := by decide +kernel

theorem witness_EncodeOfDecode : decode 256 (.word 0x023000FF) = .ok (.get 0x30 255) ∧
    decode 256 (.frame reqBytes) = .ok (.req03 1 4096) ∧ decode 256 (.frame rspBytes) = .ok (.rsp03 1 3 42) := by
  decide +kernel

/-- The bounds of each clause, and the first word past it. -/
theorem witness_CommandWordsLegalExactly : decodeCommand 256 0x023000FF = .ok (.get 0x30 255) ∧
    (∀ w ∈ [0x010200FF, 0x0103FFFF, 0x02200007, 0x023000FF, 0x02170000, 0x11FF0000, 0x20FFFFFF, 0x30000000],
      (decodeTableWord 32 w).isSome = true) ∧
    (∀ w ∈ [0x01020100, 0x01040000, 0x02200008, 0x02300100, 0x02170001, 0x02180000, 0x11FF0001, 0x22000001],
      decodeTableWord 32 w = none) := by decide +kernel

theorem witness_IllegalWordAnswered :
    (let s := hosted 0x01020100 State.reset
     blocksTurn s ∧ s.seq = .idle ∧ s.hostCmds = 0x01020100 :: [] ∧
       decodeCommand s.params.rxcap 0x01020100 = .error (.illegalSet 0x02 256)) ∧
    opField 0x03000000 ∉ [0x00, 0x01, 0x02, 0x10, 0x11, 0x20, 0x21, 0x22, 0x30] ∧
    (opField 0x22000001 ∈ [0x00, 0x10, 0x21, 0x22] ∧ immField 0x22000001 ≠ 0) ∧
    (opField 0x11AB0001 = 0x11 ∧ immField 0x11AB0001 ≠ 0) := by
  refine ⟨⟨.inl rfl, rfl, rfl, ?_⟩, ?_, ?_, ?_⟩ <;> decide +kernel

theorem witness_StepRunsAcceptedCommand :
    let s := scheduled [.block] (hosted 0x30011006 State.reset)
    blocksTurn s ∧ s.seq = .idle ∧ s.hostCmds = 0x30011006 :: [] ∧
      decodeCommand s.params.rxcap 0x30011006 = .ok (.read 1 4102) := by
  refine ⟨.inr rfl, rfl, rfl, ?_⟩; decide +kernel

theorem witness_StepRunsArrivedFrame :
    (scheduled [.line rspBytes] State.reset).schedule.head? = some (.line rspBytes) ∧
      decodeFrame rspBytes = .ok (.rsp03 1 3 42) := by
  refine ⟨rfl, ?_⟩; decide +kernel

theorem witness_HostHeldWhileBusy :
    (hosted 0x00000000 (inSeq .write .xact)).seq ≠ .idle ∧
    (hosted 0x00000000 State.reset).hostCmds = [0x00000000] ∧
    ∃ t, step (hosted 0x00000000 State.reset) = .next t ∧ t.hostCmds = [] :=
  ⟨by decide, rfl, exists_of_look (f := State.hostCmds) (by decide +kernel)⟩

theorem witness_NopAnswersZero : opField 0x00000001 = 0x00 ∧ (0x00000001 : Word) ≠ 0 := by decide

theorem witness_SetWritesRegister : ((0x02 : Byte) = 0x02 ∧ (255 : Half).toNat ≤ 255) ∧ State.reset.seq = .idle ∧
    (0x04 : Byte) ∉ [(0x00 : Byte), 0x01, 0x02, 0x03] ∧ 255 < (256 : Half).toNat := by decide

theorem witness_GetReadsRegister :
    (encoded.txvalid = true ∧ (7 : Half).toNat ≤ 7 ∧ encoded.txbuf.find (7 : Half).toNat = some 0xCA) ∧
    ((6 : Half).toNat < (heard rspBytes).rxlen.toNat ∧ (6 : Half).toNat < (heard rspBytes).params.rxcap ∧
      (heard rspBytes).rxbuf.find (6 : Half).toNat = some 0x9B) ∧
    (State.reset.seq = .idle ∧ State.reset.txvalid = false) ∧
    ((heard rspBytes).seq = .idle ∧ (heard rspBytes).rxlen.toNat ≤ (7 : Half).toNat ∧
      (255 : Half).toNat < (heard rspBytes).params.rxcap) ∧
    ((0x04 : Byte) ∉ [(0x00 : Byte), 0x01, 0x02, 0x03, 0x10, 0x11, 0x12, 0x13, 0x14, 0x15, 0x16, 0x17, 0x20, 0x30] ∧
      7 < (8 : Half).toNat ∧ State.reset.params.rxcap ≤ (256 : Half).toNat) := by decide +kernel

theorem witness_CrcinitStarts : opField 0x10010000 = 0x10 ∧ aField 0x10010000 ≠ 0 := by decide

theorem witness_CrcbyteFeeds : opField 0x11AB0001 = 0x11 ∧ immField 0x11AB0001 ≠ 0 := by decide

theorem witness_SingleBitErrorsDetected : 0 < 8 * (crcAppend []).length ∧ 15 < 8 * (crcAppend []).length := by decide

theorem witness_AccumulatorComputesCrc :
    let s := { State.reset with hostCmds := [0x10000000, 0x11010000] }
    (∃ t, run 2 s = .next t ∧
      t.history = s.history ++ [.cmd 0x10000000, .resp 0x0000FFFF, .cmd 0x11010000, .resp 0x0000807E]) ∧
      crcCommands s.params.rxcap [.cmd 0x10000000, .resp 0x0000FFFF, .cmd 0x11010000, .resp 0x0000807E] =
        .crcinit :: [(0x01 : Byte)].map .crcbyte :=
  ⟨exists_of_look (f := State.history) (by decide +kernel), by decide +kernel⟩

theorem witness_DecReportsDecode :
    (heard rspBytes).seq = .idle ∧ decodeResponse (heard rspBytes).reception = .ok 42 ∧
    ((heard []).rxlen = 0 ∧ decodeResponse (heard []).reception = .error .tooShort) ∧
    decodeResponse (heard badBytes).reception = .error .badCrc ∧
    decodeResponse (heard excBytes).reception = .error .unexpectedLength := by decide +kernel

theorem witness_DecIdempotent : ∃ t, exec .dec (heard rspBytes) = .next t ∧ t.value = 42 :=
  exists_of_look (f := State.value) (by decide +kernel)

theorem witness_XactAccepted : encoded.txvalid = true ∧ State.reset.txvalid = false ∧ State.reset.seq = .idle := by decide

theorem witness_SendSteps :
    (blocksTurn (inSeq .txen .xact) ∧ (inSeq .txen .xact).seq = .txen) ∧
    (blocksTurn (inSeq .write .xact) ∧ (inSeq .write .xact).seq = .write ∧ reqBytes.length = 8 ∧
      ∀ k, k < 8 → (inSeq .write .xact).txbuf.find k = reqBytes[k]?) ∧
    (blocksTurn (inSeq .settle .xact) ∧ (inSeq .settle .xact).seq = .settle ∧ (inSeq .settle .xact).timer = 0) := by
  refine ⟨⟨.inl rfl, rfl⟩, ⟨.inl rfl, rfl, rfl, ?_⟩, .inl rfl, rfl, rfl⟩
  decide +kernel

theorem witness_RxReadTakesWhatArrived : ∀ op : CmdOp,
    blocksTurn (inSeq .rxwait op) ∧ (inSeq .rxwait op).seq = .rxwait ∧ (inSeq .rxwait op).timer = 0 ∧
      (inSeq .rxwait op).cmdop = op := fun _ => ⟨.inl rfl, rfl, rfl, rfl⟩

theorem witness_WaitLastsItsTicks :
    (let s := { inSeq .rdelay .read with timer := 1 }
     blocksTurn s ∧ s.seq = .rdelay ∧ s.timer ≠ 0) ∧
    (inSeq .settle .xact).seq = .settle ∧
    (scheduled [.tick, .tick, .block] (inSeq .settle .xact)).schedule = List.replicate 2 .tick ++ [.block] :=
  ⟨⟨.inl rfl, rfl, by decide⟩, rfl, rfl⟩

/-- Two ticks of settle with a turn of the block before they are over, none of response wait; a tick and noise before
`Dir(1)` and `Tx`, and an answer that arrives in the settle wait. -/
def busyLine : Sending where
  enable := [.tick]
  write := [.line [0xFF]]
  settle := [.tick, .line rspBytes, .block, .tick]
  wait := []

theorem witness_XactRunsToCompletion :
    let s := scheduled (.block :: (busyLine.turns ++ [])) { hosted 0x21000000 encoded with tSettle := 2, tResp := 0 }
    s.seq = .idle ∧ s.txvalid = true ∧ s.hostCmds = 0x21000000 :: [] ∧ busyLine.fits s.tSettle s.tResp = true ∧
      s.schedule = .block :: (busyLine.turns ++ []) :=
  ⟨rfl, rfl, rfl, by decide, rfl⟩

theorem witness_OverflowNeverDecodes :
    let s := { inSeq .rxwait .xact with
      params := { Params.standard with rxcap := 8, rxcap_legal := by decide }, lineRx := [1, 2, 3, 4, 5, 6, 7, 8, 9] }
    blocksTurn s ∧ s.seq = .rxwait ∧ s.timer = 0 ∧ s.params.rxcap < s.lineRx.length ∧ ∃ t, step s = .next t :=
  ⟨.inl rfl, rfl, rfl, by decide, _, rfl⟩

theorem witness_EvalJudgesAttempt :
    (blocksTurn (judging rspBytes 0) ∧ (judging rspBytes 0).seq = .eval) ∧
    ((judging rspBytes 0).rxlen ≠ 0 ∧ decodeResponse (judging rspBytes 0).reception = .ok 42) ∧
    ((judging [] 0).rxlen = 0 ∧ (judging [] 0).retryLeft = 0) ∧
    ((judging [0x01] 1).rxlen ≠ 0 ∧ decodeResponse (judging [0x01] 1).reception = .error .tooShort ∧
      (judging [0x01] 1).retryLeft ≠ 0) ∧
    decodeResponse (judging badBytes 0).reception = .error .badCrc ∧
    decodeResponse (judging excBytes 0).reception = .error .unexpectedLength := by
  refine ⟨⟨.inl rfl, rfl⟩, ?_⟩
  decide +kernel

/-- The turns of a transaction without waits in which `bytes` arrive before `RxRead`. -/
def hearing (bytes : List Byte) : Sending where
  enable := []
  write := [.tick]
  settle := []
  wait := [.line bytes]

/-- A read that fails once and then succeeds: V87's first attempt and V80's answer, a tick between `RxRead` and `Eval`, a
delay of one tick with a turn of the block before it is over. -/
theorem witness_ReadRunsToCompletion_retry :
    let a : Attempt := ⟨hearing badBytes, [.tick], [.block, .tick]⟩
    let last : Attempt := ⟨hearing rspBytes, [.line [0xFF]], []⟩
    let s := scheduled (.block :: ([a].flatMap Attempt.retried ++ (last.turns ++ [])))
      { hosted 0x30011000 State.reset with tSettle := 0, tResp := 0, retryCount := 1, retryDelay := 1 }
    s.seq = .idle ∧ s.hostCmds = mkWord 0x30 0x01 0x1000 :: [] ∧
      (∀ b ∈ [a], b.fits s.tSettle s.tResp ∧ b.delayFits s.retryDelay) ∧ last.fits s.tSettle s.tResp ∧
      (∀ r ∈ received s.lineRx [a], ∃ e, judge (r.take s.params.rxcap) = .error e) ∧
      judge ((carryAfter s.lineRx [a] ++ bytesIn last.send.turns).take s.params.rxcap) = .ok 42 ∧
      [a].length ≤ s.retryCount.toNat := by
  refine ⟨rfl, by decide, ?_, ⟨rfl, rfl⟩, ?_, by decide +kernel, by decide⟩
  · intro b hb
    rw [List.mem_singleton] at hb
    subst hb
    exact ⟨⟨rfl, rfl⟩, rfl⟩
  · intro r hr
    simp only [received, List.mem_cons, List.not_mem_nil, or_false] at hr
    subst hr
    exact ⟨.malformed .badCrc, by decide +kernel⟩

/-- A read of one tick each way that hears nothing: V81 with shorter waits. -/
theorem witness_ReadRunsToCompletion_silent :
    let last : Attempt := ⟨⟨[], [], [.tick], [.tick]⟩, [], []⟩
    let s := scheduled (.block :: (([] : List Attempt).flatMap Attempt.retried ++ (last.turns ++ [.block])))
      { hosted 0x30011000 State.reset with tSettle := 1, tResp := 1 }
    s.seq = .idle ∧ s.hostCmds = mkWord 0x30 0x01 0x1000 :: [] ∧ last.fits s.tSettle s.tResp ∧
      judge ((carryAfter s.lineRx [] ++ bytesIn last.send.turns).take s.params.rxcap) = .error .noResponse ∧
      ([] : List Attempt).length = s.retryCount.toNat :=
  ⟨rfl, by decide, ⟨rfl, rfl⟩, by decide +kernel, rfl⟩

theorem witness_BusyBlockFinishes : (inSeq .rdelay .read).seq ≠ .idle := by decide

theorem witness_ResetEventResets : (scheduled [.reset] (inSeq .settle .xact)).schedule.head? = some .reset := rfl

theorem witness_AsyncEventsDoNoMore :
    (scheduled [.tick] (inSeq .settle .xact)).schedule.head? = some .tick ∧
    (scheduled [.line [0xFF]] State.reset).schedule.head? = some (.line [0xFF]) := ⟨rfl, rfl⟩

theorem witness_WireFramesArrive : (0xCA80 : Half) = crc16 [0x01, 0x03, hi 0x1000, lo 0x1000, 0x00, 0x01] ∧
    (0x9B39 : Half) = crc16 [0x01, 0x03, 0x02, hi 42, lo 42] := by decide +kernel

/-! ### A state in the middle of a READ that meets the three invariants, and its next step -/

/-- In `EVAL` after V80's answer, with the history that leads there at reset values and zero waits. -/
def midRead : State :=
  { judging rspBytes 0 with
    lineTx := [reqBytes]
    history := [.reset, .cmd 0x30011000, .dir true, .tx reqBytes, .dir false] ++ rspBytes.map .arrive ++
      [.rxRead rspBytes] }

/-- What a buffer written from empty holds. -/
theorem isSome_find_cells (bytes : List Byte) (i : Nat) :
    ((cells bytes).find i).isSome = true ↔ i < bytes.length := by
  rw [cells, Memory.find_writeBytes]
  by_cases h : i < bytes.length <;> simp [h]

theorem midRead_runInv : RunInv midRead := by
  constructor <;> decide +kernel

theorem midRead_bufferInv : BufferInv midRead where
  txbuf_wf := by decide +kernel
  rxbuf_wf := by decide +kernel
  txbuf_holds i := (isSome_find_cells reqBytes i).trans ⟨fun h => ⟨rfl, h⟩, fun h => h.2⟩
  rxbuf_holds i := isSome_find_cells rspBytes i
  request_eq _ := by decide +kernel
  rxovf_full h := by cases h
  timer_zero _ := rfl

theorem midRead_historyInv : HistoryInv midRead where
  port := by decide +kernel
  line := by decide +kernel
  lineTx_eq := by decide +kernel
  lineRx_eq := by decide +kernel
  requests f hf := ⟨1, 0x1000, by
    have e : f = reqBytes := List.mem_singleton.mp hf
    rw [e]
    decide +kernel⟩
  responses w hw := by simp [midRead, judging, heard, encoded, rspBytes] at hw

theorem witness_StepKeepsInvariants :
    RunInv midRead ∧ BufferInv midRead ∧ HistoryInv midRead ∧ ∃ t, step midRead = .next t ∧ t.value = 42 :=
  ⟨midRead_runInv, midRead_bufferInv, midRead_historyInv, exists_of_look (f := State.value) (by decide +kernel)⟩

theorem witness_RetryRestartsAttempt :
    blocksTurn (inSeq .rdelay .read) ∧ (inSeq .rdelay .read).seq = .rdelay ∧ (inSeq .rdelay .read).timer = 0 :=
  ⟨.inl rfl, rfl, rfl⟩

theorem witness_RunsKeepR35 : ∃ t,
    run 3 { State.powerUp Params.standard with
      lineRx := [0xFF], hostCmds := [0x30011000], schedule := [.block, .tick, .block] } = .next t ∧ t.seq = .write :=
  exists_of_look (f := State.seq) (by decide +kernel)

theorem witness_StatusesOfCommands :
    ((heard rspBytes).rsp = none ∧ ∃ t, exec .dec (heard rspBytes) = .next t ∧ t.rsp = some 0x0000002A) ∧
    (midRead.seq ≠ .idle ∧ ∃ t, step midRead = .next t ∧ t.rsp = some 0x0000002A) ∧
    ∃ t, step (inSeq .rxwait .xact) = .next t ∧ t.rsp = some 0x00000000 :=
  ⟨⟨rfl, exists_of_look (f := State.rsp) (by decide +kernel)⟩,
    ⟨by decide, exists_of_look (f := State.rsp) (by decide +kernel)⟩,
    exists_of_look (f := State.rsp) (by decide +kernel)⟩

theorem witness_CrcaccOnlyByCrcCommands : (hosted 0x11010000 State.reset).crcacc = 0xFFFF ∧
    ∃ t, step (hosted 0x11010000 State.reset) = .next t ∧ t.crcacc = 0x807E :=
  ⟨rfl, exists_of_look (f := State.crcacc) (by decide +kernel)⟩

theorem witness_ConfigOnlyBySet :
    (hosted 0x01000014 State.reset).schedule.head? ≠ some .reset ∧ (hosted 0x01000014 State.reset).tSettle = 10 ∧
    ∃ t, step (hosted 0x01000014 State.reset) = .next t ∧ t.tSettle = 20 :=
  ⟨by decide, rfl, exists_of_look (f := State.tSettle) (by decide +kernel)⟩

theorem witness_FlagsChangeOnlyAsListed : midRead.schedule.head? ≠ some .reset ∧ midRead.ok = false ∧
    ∃ t, step midRead = .next t ∧ t.ok = true :=
  ⟨by decide, rfl, exists_of_look (f := State.ok) (by decide +kernel)⟩

theorem witness_ResultRegistersWrittenOnlyAsListed :
    (midRead.schedule.head? ≠ some .reset ∧ midRead.value = 0 ∧ ∃ t, step midRead = .next t ∧ t.value = 42) ∧
    (let s := hosted 0x11010000 State.reset
     s.schedule.head? ≠ some .reset ∧ s.crcacc = 0xFFFF ∧ fetched s = some (.crcbyte 0x01) ∧
       ∃ t, step s = .next t ∧ t.crcacc = 0x807E) :=
  ⟨⟨by decide, rfl, exists_of_look (f := State.value) (by decide +kernel)⟩,
    by decide, rfl, by decide +kernel, exists_of_look (f := State.crcacc) (by decide +kernel)⟩

theorem witness_LineOwnedBySequencer :
    ((inSeq .txen .xact).de = false ∧ ∃ t, step (inSeq .txen .xact) = .next t ∧ t.de = true) ∧
    ((inSeq .write .xact).lineTx = [] ∧ ∃ t, step (inSeq .write .xact) = .next t ∧ t.lineTx = [reqBytes]) ∧
    (State.reset.lineRx = [] ∧
      ∃ t, step (scheduled [.line [0xFF]] State.reset) = .next t ∧ t.lineRx = [0xFF]) :=
  ⟨⟨rfl, exists_of_look (f := State.de) (by decide +kernel)⟩,
    ⟨rfl, exists_of_look (f := State.lineTx) (by decide +kernel)⟩,
    rfl, exists_of_look (f := State.lineRx) (by decide +kernel)⟩

theorem witness_RegisterCommandsFrame : ∀ i ∈ [Instr.nop, .set 0x02 255, .get 0x20 7, .crcinit, .crcbyte 0, .xact, .dec],
    (look State.params (exec i (heard rspBytes))).isSome = true := by decide +kernel

theorem witness_RequestCommandsFrame : (∃ t, exec (.enc 1 0x1000) State.reset = .next t) ∧
    ∃ t, exec (.read 1 0x1000) State.reset = .next t := ⟨⟨_, rfl⟩, _, rfl⟩

/-- One success, one READ that `Reset` cancels after a tick, with a SET before the next one; two addresses still to read. -/
theorem witness_SnapshotHoldsSuccessfulReads :
    let xs := [asked 4096 (some 0x0000002A), ⟨4102, [.tick], none, [.cmd 0x01000014, .resp 0x00000014]⟩]
    (xs.map Exchange.addr ++ [4110, 4200]).Nodup ∧ (∀ x ∈ xs, x.fits) ∧
      xs.filterMap (fun x => x.answer.bind fun w => if opField w = 0x00 then some (x.addr, immField w) else none) =
        [(4096, 42)] := by
  refine ⟨by decide, ?_, by decide +kernel⟩
  intro x hx
  simp only [List.mem_cons, List.not_mem_nil, or_false] at hx
  rcases hx with rfl | rfl <;>
    refine ⟨by decide, fun w hw => ?_⟩ <;>
    simp [asked] at hw
  subst hw
  decide

theorem witness_SnapshotOnlySuccessfullyRead :
    let cycle := (asked 4096 (some 0x0000002A)).events 1
    [(4096 : Half), 4102].Nodup ∧ (4096, 42) ∈ snapshotOf 1 [4096, 4102] cycle ∧ answeredOk 1 4096 42 cycle := by
  refine ⟨by decide, by decide +kernel, [], [], [], 0x0000002A, rfl, ?_, ?_, ?_⟩ <;> decide

end Sys2Proof.Tests
end

section
/-! The state after reset, and the `Reset` event that brings it about in every state (10_state.md R36,
70_reset_and_hazards.md R235 to R237). -/

namespace Sys2Proof.Machine

/-- In `IDLE` the invariant of the sequencer asks only that the line is released and that `RXLEN` fits. -/
theorem RunInv.of_idle {s : State} (hseq : s.seq = .idle) (hde : s.de = false)
    (hlen : s.rxlen.toNat ≤ s.params.rxcap) : RunInv s := by
  constructor <;> simp [hseq, hde, hlen]

/-- Power-up meets the invariant of the sequencer, whatever the parameters. -/
theorem runInv_powerUp (p : Params) : RunInv (State.powerUp p) := .of_idle rfl rfl (Nat.zero_le _)

/-- Power-up meets the invariant of the buffers: no byte of either holds a value. -/
theorem bufferInv_powerUp (p : Params) : BufferInv (State.powerUp p) where
  txbuf_wf := rfl
  rxbuf_wf := rfl
  txbuf_holds i := by simp [State.powerUp]
  rxbuf_holds i := by simp [State.powerUp]
  request_eq h := nomatch h
  rxovf_full h := nomatch h
  timer_zero _ := rfl

/-- Power-up meets the invariant of the history, which is `[Reset]`. -/
theorem historyInv_powerUp (p : Params) : HistoryInv (State.powerUp p) where
  port := rfl
  line := rfl
  lineTx_eq := rfl
  lineRx_eq := rfl
  requests f hf := by simp [State.powerUp] at hf
  responses w hw := by simp [State.powerUp] at hw

end Sys2Proof.Machine

namespace Sys2Proof.Proofs

open Sys2Proof.Machine

/-- Settles O35: each value is the one power-up writes for the default parameters. -/
theorem resetValues : Obligations.ResetValues := by
  unfold Obligations.ResetValues State.reset
  exact ⟨rfl, rfl, rfl, rfl, rfl, rfl, rfl, rfl, rfl, rfl, rfl, rfl, rfl, rfl, fun _ => ⟨rfl, rfl⟩, rfl, rfl, rfl, rfl,
    rfl, rfl, rfl, rfl⟩

/-- Settles O36: a `Reset` turn is `resetEvent` after the start of the turn. -/
theorem resetEventResets : Obligations.ResetEventResets := fun _ h => step_reset (turn_of_head? h)

/-- Settles O39: `State.reset` is power-up with the default parameters. -/
theorem resetMeetsInvariants : Obligations.ResetMeetsInvariants :=
  ⟨runInv_powerUp _, bufferInv_powerUp _, historyInv_powerUp _⟩

end Sys2Proof.Proofs
end

section
/-! What a command accepted in `IDLE` can do to the sequencer and the buffers: answer at once, store a request, or start
a transaction. -/

namespace Sys2Proof.Machine

/-- `t` has both buffers, and every register the invariant of the buffers speaks of, from `s`. -/
structure SameBuffers (s t : State) : Prop where
  txbuf : t.txbuf = s.txbuf
  rxbuf : t.rxbuf = s.rxbuf
  txvalid : t.txvalid = s.txvalid
  rxovf : t.rxovf = s.rxovf
  rxlen : t.rxlen = s.rxlen
  slaveId : t.slaveId = s.slaveId
  regAddr : t.regAddr = s.regAddr
  params : t.params = s.params

/-- The state after the request of ENC or READ is stored (41_frame_codec.md R118, 43_register_reader.md R156). -/
def State.withRequest (sid : Byte) (addr : Half) (s : State) : State :=
  ({ s with slaveId := sid, regAddr := addr }.storeRequest sid addr).setTxvalid

/-- A SET writes no register the buffers' invariant speaks of, and moves neither `SEQ`, `de` nor `TIMER`. -/
theorem setData_sameBuffers (r : Reg) (imm : Half) (s : State) :
    SameBuffers s (setData r imm s) ∧ (setData r imm s).seq = s.seq ∧ (setData r imm s).de = s.de ∧
      (setData r imm s).timer = s.timer := by
  obtain ⟨ts, tr, rc, rd, e⟩ := setData_frame r imm s
  rw [e]
  exact ⟨by constructor <;> rfl, rfl, rfl, rfl⟩

/-- What a command accepted in `IDLE` can do: answer at once and leave the buffers alone, ENC, XACT or READ. -/
theorem exec_idle_cases {i : Instr} {s t : State} (hs : s.seq = .idle) (h : exec i s = .next t) :
    (SameBuffers s t ∧ t.seq = .idle ∧ t.de = s.de ∧ t.timer = s.timer) ∨
    (∃ a imm d, t = (s.withRequest a imm).respond .ok d) ∨
    (s.txvalid = true ∧ t = { s with cmdop := .xact, seq := .txen }) ∨
    (∃ a imm, t = { (s.withRequest a imm).clearOk with
      attempts := 0, retryLeft := s.retryCount, cmdop := .read, seq := .txen }) := by
  rcases exec_inv h with ⟨-, rfl⟩ | ⟨r, imm, -, -, rfl⟩ | ⟨r, imm, d, -, -, rfl⟩ | ⟨a, imm, -, rfl⟩ |
    ⟨a, imm, -, rfl⟩ | ⟨-, rfl⟩ | ⟨a, -, rfl⟩ | ⟨a, imm, d, -, rfl⟩ | ⟨-, hv, rfl⟩ | ⟨-, -, rfl⟩ |
    ⟨v, -, -, rfl⟩ | ⟨d, -, -, rfl⟩ | ⟨a, imm, -, rfl⟩ | ⟨bytes, -, rfl⟩
  · exact .inl ⟨by constructor <;> rfl, hs, rfl, rfl⟩
  · obtain ⟨hb, hseq, hde, ht⟩ := setData_sameBuffers r imm s
    exact .inl ⟨{ hb with }, hseq.trans hs, hde, ht⟩
  · exact .inl ⟨by constructor <;> rfl, hs, rfl, rfl⟩
  · exact .inl ⟨by constructor <;> rfl, rfl, rfl, rfl⟩
  · exact .inl ⟨by constructor <;> rfl, rfl, rfl, rfl⟩
  · exact .inl ⟨by constructor <;> rfl, hs, rfl, rfl⟩
  · exact .inl ⟨by constructor <;> rfl, hs, rfl, rfl⟩
  · exact .inr (.inl ⟨a, imm, d, rfl⟩)
  · exact .inr (.inr (.inl ⟨hv, rfl⟩))
  · exact .inl ⟨by constructor <;> rfl, rfl, rfl, rfl⟩
  · exact .inl ⟨by constructor <;> rfl, rfl, rfl, rfl⟩
  · exact .inl ⟨by constructor <;> rfl, rfl, rfl, rfl⟩
  · exact .inr (.inr (.inr ⟨a, imm, rfl⟩))
  · exact .inl ⟨by constructor <;> rfl, hs, rfl, rfl⟩

end Sys2Proof.Machine
end

section
/-! The invariant of the sequencer's state (10_state.md R35): every step keeps it. -/

namespace Sys2Proof.Machine

/-- The line is released outside `WRITE` and `SETTLE` (item 1). -/
theorem RunInv.de_eq_false {s : State} (h : RunInv s) (hw : s.seq ≠ .write) (hs : s.seq ≠ .settle) : s.de = false := by
  simpa [hw, hs] using h.de_iff

/-- Whatever ends in `IDLE` with the line released and `RXLEN` kept meets the invariant again. -/
theorem RunInv.to_idle {s t : State} (h : RunInv s) (hseq : t.seq = .idle) (hde : t.de = false)
    (hlen : t.rxlen = s.rxlen) (hp : t.params = s.params) : RunInv t :=
  .of_idle hseq hde (by rw [hlen, hp]; exact h.rxlen_le)

/-! Updates that touch nothing the invariant speaks of, and the reset. -/

theorem runInv_startTurn {s : State} (h : RunInv s) : RunInv s.startTurn := { h with }

theorem runInv_accept {s : State} (h : RunInv s) (w : Word) : RunInv (s.accept w) := { h with }

theorem runInv_arrive {s : State} (h : RunInv s) (bytes : List Byte) : RunInv (s.arrive bytes) := { h with }

theorem runInv_tickEvent {s : State} (h : RunInv s) : RunInv s.tickEvent := { h with }

theorem runInv_resetEvent (s : State) : RunInv s.resetEvent := { runInv_powerUp s.params with }

/-- A command accepted in `IDLE` keeps the invariant. -/
theorem runInv_exec {i : Instr} {s t : State} (h : RunInv s) (hs : s.seq = .idle) (hx : exec i s = .next t) :
    RunInv t := by
  have hde : s.de = false := h.de_eq_false (by simp [hs]) (by simp [hs])
  rcases exec_idle_cases hs hx with ⟨hb, hseq, hd, -⟩ | ⟨a, imm, d, rfl⟩ | ⟨hv, rfl⟩ | ⟨a, imm, rfl⟩
  · exact h.to_idle hseq (hd.trans hde) hb.rxlen hb.params
  · exact h.to_idle hs hde rfl rfl
  · exact { h with
      de_iff := by simp [hde]
      reading := by simp
      txvalid_of_busy := fun _ => hv
      attempts_under_way := by simp
      attempts_before := by simp }
  · exact { h with
      de_iff := by simp [State.withRequest, hde]
      reading := by simp
      txvalid_of_busy := fun _ => rfl
      attempts_under_way := by simp
      attempts_before := by simp [State.withRequest] }

/-- Step `Dir(1)`: an attempt of a READ is counted as the line is taken. -/
theorem runInv_stepDirOn {s : State} (h : RunInv s) (hs : s.seq = .txen) : RunInv (stepDirOn s) := by
  have hv : s.txvalid = true := h.txvalid_of_busy (by simp [hs])
  refine { h with
    de_iff := by simp [stepDirOn]
    reading := by simp [stepDirOn]
    txvalid_of_busy := fun _ => hv
    attempts_under_way := fun hc _ => ?_
    attempts_before := by simp [stepDirOn] }
  have hc : s.cmdop = .read := hc
  have hsum := h.attempts_before hc (.inl hs)
  have hrc := s.retryCount.isLt
  simp [stepDirOn, hc, BitVec.toNat_add]
  omega

/-- Step `Tx`: the wait begins with the line still taken. -/
theorem runInv_stepTx {s : State} (h : RunInv s) (hs : s.seq = .write) : RunInv (stepTx s) :=
  { h with
    de_iff := by simpa [stepTx, hs] using h.de_iff
    reading := by simp [stepTx]
    txvalid_of_busy := fun _ => h.txvalid_of_busy (by simp [hs])
    attempts_under_way := fun hc _ => h.attempts_under_way hc (.inl hs)
    attempts_before := by simp [stepTx] }

/-- Step `Dir(0)`: the line is released. -/
theorem runInv_stepDirOff {s : State} (h : RunInv s) (hs : s.seq = .settle) : RunInv (stepDirOff s) :=
  { h with
    de_iff := by simp [stepDirOff]
    reading := by simp [stepDirOff]
    txvalid_of_busy := fun _ => h.txvalid_of_busy (by simp [hs])
    attempts_under_way := fun hc _ => h.attempts_under_way hc (.inr (.inl hs))
    attempts_before := by simp [stepDirOff] }

/-- Step `RxRead`: an XACT ends, a READ goes on to judge what came; at most `RXCAP` bytes are kept. -/
theorem runInv_stepRxRead {s : State} (h : RunInv s) (hs : s.seq = .rxwait) : RunInv (stepRxRead s) := by
  have hde : s.de = false := h.de_eq_false (by simp [hs]) (by simp [hs])
  have hlen : s.receive.rxlen.toNat ≤ s.params.rxcap := by rw [toNat_receive_rxlen]; exact Nat.min_le_right _ _
  rcases stepRxRead_cases s with ⟨-, e⟩ | ⟨hc, e⟩ <;> rw [e]
  · exact .of_idle rfl hde hlen
  · exact { h with
      de_iff := by simp [hde]
      rxlen_le := hlen
      reading := fun _ => hc
      txvalid_of_busy := fun _ => h.txvalid_of_busy (by simp [hs])
      attempts_under_way := fun hc _ => h.attempts_under_way hc (.inr (.inr (.inl hs)))
      attempts_before := by simp }

/-- Step `Eval`: the READ ends, or gives up one of the retries left, which there is one of. -/
theorem runInv_stepEval {s : State} (h : RunInv s) (hs : s.seq = .eval) : RunInv (stepEval s) := by
  have hde : s.de = false := h.de_eq_false (by simp [hs]) (by simp [hs])
  rcases stepEval_cases s with ⟨v, -, e⟩ | ⟨r, -, -, e⟩ | ⟨r, -, hr, e⟩ <;> rw [e]
  · exact h.to_idle rfl hde rfl rfl
  · exact h.to_idle rfl hde rfl rfl
  · refine { h with
      de_iff := by simp [hde]
      reading := fun _ => h.reading (.inl hs)
      txvalid_of_busy := fun _ => h.txvalid_of_busy (by simp [hs])
      attempts_under_way := by simp
      attempts_before := fun hc _ => ?_ }
    have hsum := h.attempts_under_way hc (.inr (.inr (.inr hs)))
    have hpos : s.retryLeft.toNat ≠ 0 := fun h0 => hr (BitVec.eq_of_toNat_eq h0)
    have hlt := s.retryLeft.isLt
    simp [BitVec.toNat_sub]
    omega

/-- Step `Retry`: the next attempt begins. -/
theorem runInv_stepRetry {s : State} (h : RunInv s) (hs : s.seq = .rdelay) : RunInv (stepRetry s) :=
  { h with
    de_iff := by simp [stepRetry, h.de_eq_false (by simp [hs]) (by simp [hs])]
    reading := by simp [stepRetry]
    txvalid_of_busy := fun _ => h.txvalid_of_busy (by simp [hs])
    attempts_under_way := by simp [stepRetry]
    attempts_before := fun hc _ => h.attempts_before hc (.inr hs) }

/-- Every transition of the sequencer keeps the invariant. -/
theorem runInv_sequencerStep {s : State} (h : RunInv s) : RunInv (sequencerStep s) := by
  rcases sequencerStep_cases s with ⟨-, e⟩ | ⟨hs, e⟩ | ⟨hs, e⟩ | ⟨hs, -, e⟩ | ⟨hs, -, e⟩ | ⟨hs, e⟩ | ⟨hs, -, e⟩ |
    ⟨-, -, e⟩ <;> rw [e]
  · exact h
  · exact runInv_stepDirOn h hs
  · exact runInv_stepTx h hs
  · exact runInv_stepDirOff h hs
  · exact runInv_stepRxRead h hs
  · exact runInv_stepEval h hs
  · exact runInv_stepRetry h hs
  · exact h

/-- Every step keeps the invariant of the sequencer. -/
theorem runInv_step {s t : State} (h : RunInv s) (hst : step s = .next t) : RunInv t := by
  rcases step_inv hst with ⟨-, rfl⟩ | ⟨-, rfl⟩ | ⟨bytes, -, rfl⟩ | ⟨-, -, -, rfl⟩ | ⟨w, -, -, -, hs, -, -, rfl⟩ |
    ⟨w, -, i, -, hs, -, -, hx, -⟩ | ⟨-, -, rfl⟩
  · exact runInv_tickEvent (runInv_startTurn h)
  · exact runInv_resetEvent _
  · exact runInv_arrive (runInv_startTurn h) bytes
  · exact runInv_startTurn h
  · exact h.to_idle rfl (h.de_eq_false (by simp [hs]) (by simp [hs])) rfl rfl
  · exact runInv_exec (runInv_accept (runInv_startTurn h) w) hs hx
  · exact runInv_sequencerStep (runInv_startTurn h)


end Sys2Proof.Machine

namespace Sys2Proof.Proofs

open Sys2Proof.Machine

/-- Settles O40: the reset, the commands and each transition of the sequencer keep the invariant. -/
theorem stepKeepsRunInv : Obligations.StepKeepsRunInv := fun _ _ h hst => runInv_step h hst

/-- Settles O43: the invariant holds at power-up, every step keeps it, and items 2 and 7 hold of every state. -/
theorem runsKeepR35 : Obligations.RunsKeepR35 := by
  intro p carry words turns n t hrun
  have h0 : RunInv { State.powerUp p with lineRx := carry, hostCmds := words, schedule := turns } :=
    { runInv_powerUp p with }
  have h : RunInv t := run_keeps (fun _ _ h hst => runInv_step h hst) h0 hrun
  refine ⟨h.de_iff, ⟨?_, ?_⟩, h.rxlen_le, h.reading, h.txvalid_of_busy, fun hc => ⟨fun hs => ?_, fun hs => ?_⟩, ?_⟩
  · simp [State.cmdReady]
  · rfl
  · exact h.attempts_under_way hc (by simpa using hs)
  · exact h.attempts_before hc (by simpa using hs)
  · cases t.seq <;> simp

end Sys2Proof.Proofs
end

section
/-! The invariant of the buffers and of `TIMER` (10_state.md R23, R30, R31, 20_memory.md R60): every step keeps it. -/

namespace Sys2Proof.Machine

/-- A sequence written from index 0 gives a value to the bytes it covers and takes none away. -/
theorem Memory.isSome_find_writeBytes_zero (bs : List Byte) (m : Memory) (i : Nat) :
    ((m.writeBytes 0 bs).find i).isSome = true ↔ i < bs.length ∨ (m.find i).isSome = true := by
  rw [Memory.find_writeBytes]
  by_cases h : i < bs.length <;> simp [h]

/-- The invariant speaks of the buffers, their registers and `TIMER` outside a wait, and of nothing else. -/
theorem BufferInv.congr {s t : State} (h : BufferInv s) (hb : SameBuffers s t)
    (ht : t.waiting = false → t.timer = 0) : BufferInv t where
  txbuf_wf := by rw [hb.txbuf]; exact h.txbuf_wf
  rxbuf_wf := by rw [hb.rxbuf]; exact h.rxbuf_wf
  txbuf_holds := by rw [hb.txbuf, hb.txvalid]; exact h.txbuf_holds
  rxbuf_holds := by rw [hb.rxbuf, hb.rxlen]; exact h.rxbuf_holds
  request_eq := by rw [request_congr hb.txbuf, hb.txvalid, hb.slaveId, hb.regAddr]; exact h.request_eq
  rxovf_full := by rw [hb.rxovf, hb.rxlen, hb.params]; exact h.rxovf_full
  timer_zero := ht

/-- `TIMER` is 0 in each of the four states that are no wait (93_implementation_defined.md U14). -/
theorem BufferInv.timer_eq_zero {s : State} (h : BufferInv s)
    (hs : s.seq = .idle ∨ s.seq = .txen ∨ s.seq = .write ∨ s.seq = .eval) : s.timer = 0 := by
  apply h.timer_zero
  rcases hs with hs | hs | hs | hs <;> simp [State.waiting, hs]

/-- Storing a request keeps the invariant: `TXBUF` then holds the 8 bytes of this very request. -/
theorem bufferInv_withRequest {s : State} (h : BufferInv s) (sid : Byte) (addr : Half) :
    BufferInv (s.withRequest sid addr) :=
  { h with
    txbuf_wf := Memory.wf_writeBytes _ _ _ h.txbuf_wf
    txbuf_holds := fun i => by
      have holds := h.txbuf_holds i
      have stored := Memory.isSome_find_writeBytes_zero (encodeRequest sid addr) s.txbuf i
      rw [length_encodeRequest, holds] at stored
      exact stored.trans ⟨fun hi => ⟨rfl, hi.elim id And.right⟩, fun hi => .inl hi.2⟩
    request_eq := fun _ => request_storeRequest sid addr _ }

/-- Storing a reception keeps the invariant: `RXBUF` then holds exactly the `RXLEN` bytes kept, and a truncated
reception fills it (20_memory.md R60). -/
theorem bufferInv_receive {s : State} (h : BufferInv s) : BufferInv s.receive :=
  { h with
    rxbuf_wf := Memory.wf_writeBytes _ _ _ rfl
    rxbuf_holds := fun i => by
      rw [State.receive_rxbuf, Memory.isSome_find_writeBytes_zero, toNat_receive_rxlen]
      simp
    rxovf_full := fun hov => by
      have hlt : s.params.rxcap < s.lineRx.length := by simpa using hov
      rw [toNat_receive_rxlen]
      exact Nat.min_eq_right hlt.le }

/-! Updates that touch nothing the invariant speaks of, a tick, and the reset. -/

theorem bufferInv_startTurn {s : State} (h : BufferInv s) : BufferInv s.startTurn := { h with }

theorem bufferInv_accept {s : State} (h : BufferInv s) (w : Word) : BufferInv (s.accept w) := { h with }

theorem bufferInv_arrive {s : State} (h : BufferInv s) (bytes : List Byte) : BufferInv (s.arrive bytes) := { h with }

theorem bufferInv_tickEvent {s : State} (h : BufferInv s) : BufferInv s.tickEvent :=
  { h with timer_zero := fun hw => (tickEvent_timer_of_not_waiting (s := s) hw).trans (h.timer_zero hw) }

theorem bufferInv_resetEvent (s : State) : BufferInv s.resetEvent := { bufferInv_powerUp s.params with }

/-- A command accepted in `IDLE` keeps the invariant. -/
theorem bufferInv_exec {i : Instr} {s t : State} (h : BufferInv s) (hs : s.seq = .idle) (hx : exec i s = .next t) :
    BufferInv t := by
  have h0 : s.timer = 0 := h.timer_eq_zero (.inl hs)
  rcases exec_idle_cases hs hx with ⟨hb, -, -, ht⟩ | ⟨a, imm, d, rfl⟩ | ⟨-, rfl⟩ | ⟨a, imm, rfl⟩
  · exact h.congr hb fun _ => ht.trans h0
  · exact { bufferInv_withRequest h a imm with }
  · exact { h with timer_zero := fun _ => h0 }
  · exact { bufferInv_withRequest h a imm with timer_zero := fun _ => h0 }

/-- Step `RxRead` comes when the response wait is over, so that `TIMER` is 0 after it. -/
theorem bufferInv_stepRxRead {s : State} (h : BufferInv s) (h0 : s.timer = 0) : BufferInv (stepRxRead s) := by
  rcases stepRxRead_cases s with ⟨-, e⟩ | ⟨-, e⟩ <;> rw [e]
  · exact { bufferInv_receive h with timer_zero := fun _ => h0 }
  · exact { bufferInv_receive h with timer_zero := fun _ => h0 }

/-- Step `Eval` sets `TIMER` only where the delay of a retry begins. -/
theorem bufferInv_stepEval {s : State} (h : BufferInv s) (hs : s.seq = .eval) : BufferInv (stepEval s) := by
  have h0 : s.timer = 0 := h.timer_eq_zero (.inr (.inr (.inr hs)))
  rcases stepEval_cases s with ⟨v, -, e⟩ | ⟨r, -, -, e⟩ | ⟨r, -, -, e⟩ <;> rw [e]
  · exact { h with timer_zero := fun _ => h0 }
  · exact { h with timer_zero := fun _ => h0 }
  · exact { h with timer_zero := fun hw => by simp [State.waiting] at hw }

/-- Step `Retry` stores the request of `SLAVE_ID` and `REG_ADDR` again, which `TXBUF` held already. -/
theorem bufferInv_stepRetry {s : State} (h : BufferInv s) (hv : s.txvalid = true) (h0 : s.timer = 0) :
    BufferInv (stepRetry s) := by
  have hb : SameBuffers (s.withRequest s.slaveId s.regAddr) (stepRetry s) :=
    ⟨rfl, rfl, hv, rfl, rfl, rfl, rfl, rfl⟩
  exact (bufferInv_withRequest h _ _).congr hb fun _ => h0

/-- Every transition of the sequencer keeps the invariant. -/
theorem bufferInv_sequencerStep {s : State} (hr : RunInv s) (h : BufferInv s) : BufferInv (sequencerStep s) := by
  rcases sequencerStep_cases s with ⟨-, e⟩ | ⟨hs, e⟩ | ⟨-, e⟩ | ⟨-, -, e⟩ | ⟨-, h0, e⟩ | ⟨hs, e⟩ | ⟨hs, h0, e⟩ |
    ⟨-, -, e⟩ <;> rw [e]
  · exact h
  · exact { h with timer_zero := fun _ => h.timer_eq_zero (.inr (.inl hs)) }
  · exact { h with timer_zero := fun hw => by simp [State.waiting, stepTx] at hw }
  · exact { h with timer_zero := fun hw => by simp [State.waiting, stepDirOff] at hw }
  · exact bufferInv_stepRxRead h h0
  · exact bufferInv_stepEval h hs
  · exact bufferInv_stepRetry h (hr.txvalid_of_busy (by simp [hs])) h0
  · exact h

/-- Every step keeps the invariant of the buffers. -/
theorem bufferInv_step {s t : State} (hr : RunInv s) (h : BufferInv s) (hst : step s = .next t) : BufferInv t := by
  rcases step_inv hst with ⟨-, rfl⟩ | ⟨-, rfl⟩ | ⟨bytes, -, rfl⟩ | ⟨-, -, -, rfl⟩ | ⟨w, -, -, -, hs, -, -, rfl⟩ |
    ⟨w, -, i, -, hs, -, -, hx, -⟩ | ⟨-, -, rfl⟩
  · exact bufferInv_tickEvent (bufferInv_startTurn h)
  · exact bufferInv_resetEvent _
  · exact bufferInv_arrive (bufferInv_startTurn h) bytes
  · exact bufferInv_startTurn h
  · exact { h with timer_zero := fun _ => h.timer_eq_zero (.inl hs) }
  · exact bufferInv_exec (bufferInv_accept (bufferInv_startTurn h) w) hs hx
  · exact bufferInv_sequencerStep (runInv_startTurn hr) (bufferInv_startTurn h)

end Sys2Proof.Machine

namespace Sys2Proof.Proofs

open Sys2Proof.Machine

/-- Settles O41: storing a request, storing a reception and setting `TIMER` are the only steps that touch what the
invariant speaks of; the invariant of the sequencer gives `TXVALID` where `Retry` stores. -/
theorem stepKeepsBufferInv : Obligations.StepKeepsBufferInv := fun _ _ hr h hst => bufferInv_step hr h hst

end Sys2Proof.Proofs
end

section
/-! The waits of the sequencer (10_state.md R29, 42_transceiver.md R138). -/

namespace Sys2Proof.Machine

/-- Ticks in a row in a wait: `TIMER` is less by their number, never below 0, and the history records them. -/
theorem run_ticks (k : Nat) : ∀ {s : State} {rest : List Turn}, s.waiting = true →
    s.schedule = List.replicate k .tick ++ rest →
    ∃ n : Half, n.toNat = s.timer.toNat - k ∧ run k s = .next
      { s with timer := n, schedule := rest, rsp := if k = 0 then s.rsp else none,
               history := s.history ++ List.replicate k .tick } := by
  induction k with
  | zero =>
    intro s rest _ hs
    obtain rfl : s.schedule = rest := hs
    exact ⟨s.timer, rfl, by simp [run]⟩
  | succ k ih =>
    intro s rest hw hs
    have hturn : s.turn = .tick := by simp [State.turn, hs, List.replicate_succ]
    obtain ⟨n, hn, hrun⟩ := ih (s := s.startTurn.tickEvent) (rest := rest) hw (by simp [hs, List.replicate_succ])
    refine ⟨n, ?_, ?_⟩
    · rw [hn, toNat_tickEvent_timer (s := s.startTurn) hw, State.startTurn_timer]
      omega
    · rw [run_succ (step_tick hturn), hrun]
      simp [List.replicate_succ]

end Sys2Proof.Machine

namespace Sys2Proof.Proofs

open Sys2Proof.Machine

/-- Settles O27: with ticks missing the sequencer has no step, and the ticks are counted by induction. -/
theorem waitLastsItsTicks : Obligations.WaitLastsItsTicks := by
  refine ⟨fun s hturn hs ht => ?_, fun k s rest hs hsch => run_ticks k ((waiting_iff s).2 hs) hsch⟩
  have hw : s.startTurn.waiting = true := (waiting_iff s).2 hs
  have hbusy : s.seq ≠ .idle := by rcases hs with hs | hs | hs <;> simp [hs]
  rw [step_busy (turn_eq_block_iff.2 hturn) hbusy, sequencerStep_of_waiting hw ht]
  rfl

end Sys2Proof.Proofs
end

section
/-! What a step outside reset does to the registers and flags a GET can read (10_state.md R21 to R25), said once; the
statements about single registers are read off it. -/

namespace Sys2Proof.Machine

/-- The configuration, operand and result registers, the flags and the parameters. -/
structure Registers where
  tSettle : Half
  tResp : Half
  retryCount : Byte
  retryDelay : Half
  slaveId : Byte
  regAddr : Half
  value : Half
  err : Byte
  rxlen : Half
  attempts : Half
  crcacc : Half
  ok : Bool
  rxovf : Bool
  txvalid : Bool
  params : Params

/-- The registers of a state. -/
def State.registers (s : State) : Registers where
  tSettle := s.tSettle
  tResp := s.tResp
  retryCount := s.retryCount
  retryDelay := s.retryDelay
  slaveId := s.slaveId
  regAddr := s.regAddr
  value := s.value
  err := s.err
  rxlen := s.rxlen
  attempts := s.attempts
  crcacc := s.crcacc
  ok := s.ok
  rxovf := s.rxovf
  txvalid := s.txvalid
  params := s.params

/-- What a step from `s` to `t` that is no `Reset` does to the registers, with its occasion. -/
inductive RegisterEffect (s t : State) : Prop where
  | keep (regs : t.registers = s.registers)
  | setTSettle (imm : Half) (ran : fetched s = some (.set 0x00 imm))
      (regs : t.registers = { s.registers with tSettle := imm })
  | setTResp (imm : Half) (ran : fetched s = some (.set 0x01 imm))
      (regs : t.registers = { s.registers with tResp := imm })
  | setRetryCount (imm : Half) (ran : fetched s = some (.set 0x02 imm)) (fits : imm.toNat ≤ 255)
      (regs : t.registers = { s.registers with retryCount := lo imm })
  | setRetryDelay (imm : Half) (ran : fetched s = some (.set 0x03 imm))
      (regs : t.registers = { s.registers with retryDelay := imm })
  | crcinit (ran : fetched s = some .crcinit) (regs : t.registers = { s.registers with crcacc := Config.crcInit })
  | crcbyte (a : Byte) (ran : fetched s = some (.crcbyte a))
      (regs : t.registers = { s.registers with crcacc := crcStep s.crcacc a })
  | enc (a : Byte) (imm : Half) (ran : fetched s = some (.enc a imm))
      (regs : t.registers = { s.registers with slaveId := a, regAddr := imm, txvalid := true })
  | read (a : Byte) (imm : Half) (ran : fetched s = some (.read a imm))
      (regs : t.registers =
        { s.registers with slaveId := a, regAddr := imm, txvalid := true, ok := false, attempts := 0 })
  | noFrame (ran : fetched s = some .xact) (rsp : t.rsp = some (responseWord .noFrame 0))
      (regs : t.registers = { s.registers with err := Status.noFrame.code })
  | decOk (v : Half) (ran : fetched s = some .dec) (decoded : decodeResponse s.reception = .ok v)
      (rsp : t.rsp = some (responseWord .ok v))
      (regs : t.registers = { s.registers with value := v, ok := true, err := Status.ok.code })
  | decError (d : DecodeError) (ran : fetched s = some .dec) (rsp : t.rsp = some (responseWord (.decode d) 0))
      (regs : t.registers = { s.registers with ok := false, err := (Status.decode d).code })
  | attempt (phase : s.seq = .txen) (op : s.cmdop = .read)
      (regs : t.registers = { s.registers with attempts := s.attempts + 1 })
  | xactReceived (phase : s.seq = .rxwait) (op : s.cmdop = .xact)
      (rsp : t.rsp = some (responseWord .ok s.receive.rxlen))
      (regs : t.registers =
        { s.registers with rxlen := s.receive.rxlen, rxovf := s.receive.rxovf, err := Status.ok.code })
  | readReceived (phase : s.seq = .rxwait)
      (regs : t.registers = { s.registers with rxlen := s.receive.rxlen, rxovf := s.receive.rxovf })
  | evalOk (v : Half) (phase : s.seq = .eval) (ends : t.seq = .idle) (decoded : decodeResponse s.reception = .ok v)
      (rsp : t.rsp = some (responseWord .ok v))
      (regs : t.registers = { s.registers with value := v, ok := true, err := Status.ok.code })
  | evalError (e : ReadError) (phase : s.seq = .eval) (rsp : t.rsp = some (responseWord (.read e) 0))
      (regs : t.registers = { s.registers with err := (Status.read e).code })

/-- An attempt judged a success decodes. -/
theorem decodeResponse_of_judge {f : List Byte} {v : Half} (h : judge f = .ok v) : decodeResponse f = .ok v := by
  unfold judge at h
  split at h
  · cases h
  · split at h
    · next hd => cases h; exact hd
    · cases h

/-- The effect of an accepted command. -/
theorem registerEffect_exec {w : Word} {i : Instr} {s t : State} (hf : fetched s = some i)
    (h : exec i (s.startTurn.accept w) = .next t) : RegisterEffect s t := by
  rcases exec_inv h with ⟨rfl, rfl⟩ | ⟨r, imm, rfl, hl, rfl⟩ | ⟨r, imm, d, rfl, -, rfl⟩ | ⟨a, imm, -, rfl⟩ |
    ⟨a, imm, rfl, rfl⟩ | ⟨rfl, rfl⟩ | ⟨a, rfl, rfl⟩ | ⟨a, imm, d, rfl, rfl⟩ | ⟨rfl, -, rfl⟩ | ⟨rfl, -, rfl⟩ |
    ⟨v, rfl, hd, rfl⟩ | ⟨d, rfl, -, rfl⟩ | ⟨a, imm, rfl, rfl⟩ | ⟨bytes, -, rfl⟩
  · exact .keep (by simp [State.registers])
  · rcases setLegal_index hl with rfl | rfl | ⟨rfl, hfits⟩ | rfl
    · exact .setTSettle imm hf (by simp [State.registers, setData])
    · exact .setTResp imm hf (by simp [State.registers, setData])
    · exact .setRetryCount imm hf hfits (by simp [State.registers, setData])
    · exact .setRetryDelay imm hf (by simp [State.registers, setData])
  · exact .keep (by simp [State.registers])
  · exact .keep (by simp [State.registers, Status.writesErr])
  · exact .keep (by simp [State.registers, Status.writesErr])
  · exact .crcinit hf (by simp [State.registers])
  · exact .crcbyte a hf (by simp [State.registers])
  · exact .enc a imm hf (by simp [State.registers])
  · exact .keep (by simp [State.registers])
  · exact .noFrame hf rfl (by simp [State.registers, Status.writesErr])
  · exact .decOk v hf hd rfl (by simp [State.registers, Status.code])
  · exact .decError d hf rfl (by simp [State.registers, Status.writesErr])
  · exact .read a imm hf (by simp [State.registers])
  · exact .keep (by simp [State.registers])

/-- The effect of step `Dir(1)`: it counts the attempts of a READ and none of an XACT. -/
theorem registerEffect_stepDirOn {s : State} (hs : s.seq = .txen) : RegisterEffect s (stepDirOn s.startTurn) := by
  cases hc : s.cmdop with
  | xact => exact .keep (by simp [stepDirOn, State.registers, hc])
  | read => exact .attempt hs hc (by simp [stepDirOn, State.registers, hc])

/-- The effect of step `RxRead`. -/
theorem registerEffect_stepRxRead {s : State} (hs : s.seq = .rxwait) : RegisterEffect s (stepRxRead s.startTurn) := by
  rcases stepRxRead_cases s.startTurn with ⟨hc, e⟩ | ⟨-, e⟩ <;> rw [e]
  · exact .xactReceived hs hc rfl (by simp [State.registers, Status.code]; rfl)
  · exact .readReceived hs (by simp [State.registers]; rfl)

/-- The effect of step `Eval`. -/
theorem registerEffect_stepEval {s : State} (hs : s.seq = .eval) : RegisterEffect s (stepEval s.startTurn) := by
  rcases stepEval_cases s.startTurn with ⟨v, hj, e⟩ | ⟨r, -, -, e⟩ | ⟨r, -, -, e⟩ <;> rw [e]
  · exact .evalOk v hs rfl (decodeResponse_of_judge hj) rfl (by simp [State.registers, Status.code])
  · exact .evalError r hs rfl (by simp [State.registers, Status.writesErr])
  · exact .keep (by simp [State.registers])

/-- The effect of the sequencer's own transitions. -/
theorem registerEffect_sequencerStep (s : State) : RegisterEffect s (sequencerStep s.startTurn) := by
  rcases sequencerStep_cases s.startTurn with ⟨-, e⟩ | ⟨hs, e⟩ | ⟨-, e⟩ | ⟨-, -, e⟩ | ⟨hs, -, e⟩ | ⟨hs, e⟩ |
    ⟨-, -, e⟩ | ⟨-, -, e⟩ <;> rw [e]
  · exact .keep (by simp [State.registers])
  · exact registerEffect_stepDirOn hs
  · exact .keep (by simp [State.registers, stepTx])
  · exact .keep (by simp [State.registers, stepDirOff])
  · exact registerEffect_stepRxRead hs
  · exact registerEffect_stepEval hs
  · exact .keep (by simp [State.registers, stepRetry])
  · exact .keep (by simp [State.registers])

/-- Every step but a `Reset` has one of the effects listed. -/
theorem registerEffect_step {s t : State} (h : step s = .next t) (hr : s.schedule.head? ≠ some .reset) :
    RegisterEffect s t := by
  rcases step_inv h with ⟨-, rfl⟩ | ⟨hturn, -⟩ | ⟨bytes, -, rfl⟩ | ⟨-, -, -, rfl⟩ | ⟨w, -, -, -, -, -, -, rfl⟩ |
    ⟨w, -, i, -, -, -, -, hx, hf⟩ | ⟨-, -, rfl⟩
  · exact .keep (by simp [State.registers])
  · exact absurd (head?_of_turn hturn (by decide)) hr
  · exact .keep (by simp [State.registers])
  · exact .keep (by simp [State.registers])
  · exact .keep (by simp [State.registers, answerIllegal, Status.writesErr])
  · exact registerEffect_exec hf hx
  · exact registerEffect_sequencerStep s

end Sys2Proof.Machine
end

section
/-! The occasions on which each register and flag changes (10_state.md R21 to R25, R37, 40_crc16.md R107). In each proof
the cases named are the effects that write the register; every other effect keeps it. -/

namespace Sys2Proof.Machine

/-- A number that fits one byte is its low byte. -/
theorem toNat_lo_of_le {f : Half} (h : f.toNat ≤ 255) : (lo f).toNat = f.toNat := by
  simp [lo, Nat.mod_eq_of_lt (Nat.lt_succ_of_le h)]

/-- A byte of the reception is the byte of `RXBUF`. -/
theorem reception_getD (s : State) {k : Nat} (h : k < s.rxlen.toNat) : s.reception.getD k 0 = s.rxByte k := by
  simp [State.reception, Memory.readBytes, State.rxByte, h]

/-- The value of a frame that decodes is in its bytes 3 and 4, and it has seven bytes (41_frame_codec.md R121). -/
theorem decodeResponse_eq_ok {f : List Byte} {v : Half} (h : decodeResponse f = .ok v) :
    f.length = 7 ∧ v = join (f.getD 3 0) (f.getD 4 0) := by
  unfold decodeResponse at h
  split at h
  · cases h
  · split at h
    · cases h
    · split at h
      · cases h
      · next hdata =>
        split at h
        · cases h
        · cases h
          have hlen : f.length - 5 = 2 := not_not.mp hdata
          exact ⟨by omega, rfl⟩

/-- A reception that decodes carries bytes 3 and 4 of `RXBUF` as its value. -/
theorem value_of_decodeResponse {s : State} {v : Half} (h : decodeResponse s.reception = .ok v) :
    v = join (s.rxByte 3) (s.rxByte 4) := by
  obtain ⟨hlen, hv⟩ := decodeResponse_eq_ok h
  rw [length_reception] at hlen
  rwa [reception_getD s (by omega), reception_getD s (by omega)] at hv

namespace RegisterEffect

variable {s t : State}

theorem tSettle_of_ne (h : RegisterEffect s t) (hne : t.tSettle ≠ s.tSettle) :
    ∃ imm, fetched s = some (.set 0x00 imm) ∧ t.tSettle = imm := by
  cases h
  case setTSettle imm ran regs => exact ⟨imm, ran, congrArg Registers.tSettle regs⟩
  all_goals
    rename_i regs
    exact absurd (congrArg Registers.tSettle regs) hne

theorem tResp_of_ne (h : RegisterEffect s t) (hne : t.tResp ≠ s.tResp) :
    ∃ imm, fetched s = some (.set 0x01 imm) ∧ t.tResp = imm := by
  cases h
  case setTResp imm ran regs => exact ⟨imm, ran, congrArg Registers.tResp regs⟩
  all_goals
    rename_i regs
    exact absurd (congrArg Registers.tResp regs) hne

theorem retryCount_of_ne (h : RegisterEffect s t) (hne : t.retryCount ≠ s.retryCount) :
    ∃ imm, fetched s = some (.set 0x02 imm) ∧ t.retryCount.toNat = imm.toNat := by
  cases h
  case setRetryCount imm ran fits regs =>
    have hlo : t.retryCount = lo imm := congrArg Registers.retryCount regs
    exact ⟨imm, ran, by rw [hlo, toNat_lo_of_le fits]⟩
  all_goals
    rename_i regs
    exact absurd (congrArg Registers.retryCount regs) hne

theorem retryDelay_of_ne (h : RegisterEffect s t) (hne : t.retryDelay ≠ s.retryDelay) :
    ∃ imm, fetched s = some (.set 0x03 imm) ∧ t.retryDelay = imm := by
  cases h
  case setRetryDelay imm ran regs => exact ⟨imm, ran, congrArg Registers.retryDelay regs⟩
  all_goals
    rename_i regs
    exact absurd (congrArg Registers.retryDelay regs) hne

theorem params_eq (h : RegisterEffect s t) : t.params = s.params := by
  cases h <;> rename_i regs <;> exact congrArg Registers.params regs

theorem ok_of_ne (h : RegisterEffect s t) (hne : t.ok ≠ s.ok) :
    t.ok = false ∧ (∃ a imm, fetched s = some (.read a imm)) ∨ fetched s = some .dec ∨
      (t.ok = true ∧ s.seq = .eval ∧ t.seq = .idle) := by
  cases h
  case read a imm ran regs => exact .inl ⟨congrArg Registers.ok regs, a, imm, ran⟩
  case decOk v ran decoded rsp regs => exact .inr (.inl ran)
  case decError d ran rsp regs => exact .inr (.inl ran)
  case evalOk v phase ends decoded rsp regs => exact .inr (.inr ⟨congrArg Registers.ok regs, phase, ends⟩)
  all_goals
    rename_i regs
    exact absurd (congrArg Registers.ok regs) hne

theorem rxovf_of_ne (h : RegisterEffect s t) (hne : t.rxovf ≠ s.rxovf) :
    s.seq = .rxwait ∧ t.rxovf = decide (s.params.rxcap < s.lineRx.length) := by
  cases h
  case xactReceived phase op rsp regs => exact ⟨phase, congrArg Registers.rxovf regs⟩
  case readReceived phase regs => exact ⟨phase, congrArg Registers.rxovf regs⟩
  all_goals
    rename_i regs
    exact absurd (congrArg Registers.rxovf regs) hne

theorem txvalid_of_ne (h : RegisterEffect s t) (hne : t.txvalid ≠ s.txvalid) :
    t.txvalid = true ∧ ((∃ a imm, fetched s = some (.enc a imm)) ∨ ∃ a imm, fetched s = some (.read a imm)) := by
  cases h
  case enc a imm ran regs => exact ⟨congrArg Registers.txvalid regs, .inl ⟨a, imm, ran⟩⟩
  case read a imm ran regs => exact ⟨congrArg Registers.txvalid regs, .inr ⟨a, imm, ran⟩⟩
  all_goals
    rename_i regs
    exact absurd (congrArg Registers.txvalid regs) hne

/-- SLAVE_ID and REG_ADDR are written together, so one lemma says both. -/
theorem slaveId_regAddr_of_ne (h : RegisterEffect s t) (hne : t.slaveId ≠ s.slaveId ∨ t.regAddr ≠ s.regAddr) :
    ∃ a imm, (fetched s = some (.enc a imm) ∨ fetched s = some (.read a imm)) ∧ t.slaveId = a ∧ t.regAddr = imm := by
  cases h
  case enc a imm ran regs =>
    exact ⟨a, imm, .inl ran, congrArg Registers.slaveId regs, congrArg Registers.regAddr regs⟩
  case read a imm ran regs =>
    exact ⟨a, imm, .inr ran, congrArg Registers.slaveId regs, congrArg Registers.regAddr regs⟩
  all_goals
    rename_i regs
    exact hne.elim (absurd (congrArg Registers.slaveId regs)) (absurd (congrArg Registers.regAddr regs))

theorem value_of_ne (h : RegisterEffect s t) (hne : t.value ≠ s.value) :
    t.ok = true ∧ t.value = join (s.rxByte 3) (s.rxByte 4) ∧ (fetched s = some .dec ∨ s.seq = .eval) := by
  cases h
  case decOk v ran decoded rsp regs =>
    have hv : t.value = v := congrArg Registers.value regs
    exact ⟨congrArg Registers.ok regs, hv.trans (value_of_decodeResponse decoded), .inl ran⟩
  case evalOk v phase ends decoded rsp regs =>
    have hv : t.value = v := congrArg Registers.value regs
    exact ⟨congrArg Registers.ok regs, hv.trans (value_of_decodeResponse decoded), .inr phase⟩
  all_goals
    rename_i regs
    exact absurd (congrArg Registers.value regs) hne

/-- An `ERR` that was written is the status of the word the step shows. -/
theorem err_eq_opField {st : Status} {d : Half} (rsp : t.rsp = some (responseWord st d)) (herr : t.err = st.code) :
    ∃ w, t.rsp = some w ∧ t.err = opField w :=
  ⟨_, rsp, herr.trans (opField_responseWord st d).symm⟩

theorem err_of_ne (h : RegisterEffect s t) (hne : t.err ≠ s.err) :
    ∃ w, t.rsp = some w ∧ t.err = opField w ∧
      (fetched s = some .dec ∨ fetched s = some .xact ∨ (s.seq = .rxwait ∧ s.cmdop = .xact) ∨ s.seq = .eval) := by
  cases h
  case noFrame ran rsp regs =>
    obtain ⟨w, hw, he⟩ := err_eq_opField rsp (congrArg Registers.err regs)
    exact ⟨w, hw, he, .inr (.inl ran)⟩
  case decOk v ran decoded rsp regs =>
    obtain ⟨w, hw, he⟩ := err_eq_opField rsp (congrArg Registers.err regs)
    exact ⟨w, hw, he, .inl ran⟩
  case decError d ran rsp regs =>
    obtain ⟨w, hw, he⟩ := err_eq_opField rsp (congrArg Registers.err regs)
    exact ⟨w, hw, he, .inl ran⟩
  case xactReceived phase op rsp regs =>
    obtain ⟨w, hw, he⟩ := err_eq_opField rsp (congrArg Registers.err regs)
    exact ⟨w, hw, he, .inr (.inr (.inl ⟨phase, op⟩))⟩
  case evalOk v phase ends decoded rsp regs =>
    obtain ⟨w, hw, he⟩ := err_eq_opField rsp (congrArg Registers.err regs)
    exact ⟨w, hw, he, .inr (.inr (.inr phase))⟩
  case evalError e phase rsp regs =>
    obtain ⟨w, hw, he⟩ := err_eq_opField rsp (congrArg Registers.err regs)
    exact ⟨w, hw, he, .inr (.inr (.inr phase))⟩
  all_goals
    rename_i regs
    exact absurd (congrArg Registers.err regs) hne

theorem rxlen_of_ne (h : RegisterEffect s t) (hne : t.rxlen ≠ s.rxlen) :
    s.seq = .rxwait ∧ t.rxlen.toNat = min s.lineRx.length s.params.rxcap := by
  cases h
  case xactReceived phase op rsp regs =>
    have hlen : t.rxlen = s.receive.rxlen := congrArg Registers.rxlen regs
    exact ⟨phase, by rw [hlen, toNat_receive_rxlen]⟩
  case readReceived phase regs =>
    have hlen : t.rxlen = s.receive.rxlen := congrArg Registers.rxlen regs
    exact ⟨phase, by rw [hlen, toNat_receive_rxlen]⟩
  all_goals
    rename_i regs
    exact absurd (congrArg Registers.rxlen regs) hne

theorem attempts_of_ne (h : RegisterEffect s t) (hne : t.attempts ≠ s.attempts) :
    (t.attempts = 0 ∧ ∃ a imm, fetched s = some (.read a imm)) ∨
      (s.seq = .txen ∧ s.cmdop = .read ∧ t.attempts = s.attempts + 1) := by
  cases h
  case read a imm ran regs => exact .inl ⟨congrArg Registers.attempts regs, a, imm, ran⟩
  case attempt phase op regs => exact .inr ⟨phase, op, congrArg Registers.attempts regs⟩
  all_goals
    rename_i regs
    exact absurd (congrArg Registers.attempts regs) hne

theorem crcacc_of_ne (h : RegisterEffect s t) (hne : t.crcacc ≠ s.crcacc) :
    (fetched s = some .crcinit ∧ t.crcacc = 0xFFFF) ∨
      ∃ a, fetched s = some (.crcbyte a) ∧ t.crcacc = crcStep s.crcacc a := by
  cases h
  case crcinit ran regs => exact .inl ⟨ran, congrArg Registers.crcacc regs⟩
  case crcbyte a ran regs => exact .inr ⟨a, ran, congrArg Registers.crcacc regs⟩
  all_goals
    rename_i regs
    exact absurd (congrArg Registers.crcacc regs) hne

end RegisterEffect

end Sys2Proof.Machine

namespace Sys2Proof.Proofs

open Sys2Proof.Machine

/-- Settles O47: of the effects a step can have on the registers, only a SET's writes the configuration. -/
theorem configOnlyBySet : Obligations.ConfigOnlyBySet := by
  intro s t hst hr
  have h := registerEffect_step hst hr
  exact ⟨h.tSettle_of_ne, h.tResp_of_ne, h.retryCount_of_ne, h.retryDelay_of_ne, h.params_eq⟩

/-- Settles O48: each flag's occasions, read off the effects a step can have. -/
theorem flagsChangeOnlyAsListed : Obligations.FlagsChangeOnlyAsListed := by
  intro s t hst hr
  have h := registerEffect_step hst hr
  exact ⟨h.ok_of_ne, h.rxovf_of_ne, h.txvalid_of_ne⟩

/-- Settles O49: each register's occasions and values, read off the effects a step can have. -/
theorem resultRegistersWrittenOnlyAsListed : Obligations.ResultRegistersWrittenOnlyAsListed := by
  intro s t hst hr
  have h := registerEffect_step hst hr
  exact ⟨h.slaveId_regAddr_of_ne, h.value_of_ne, h.err_of_ne, h.rxlen_of_ne, h.attempts_of_ne, h.crcacc_of_ne⟩

end Sys2Proof.Proofs
end

section
/-! The history of events, operation by operation: where the command port and the line stand after each operation of the
block (20_memory.md R63, 30_encoding.md R80, R81). Every step keeps the discipline. -/

namespace Sys2Proof.Machine

/-- What `HistoryInv` says of a state, for any standing of the port and of the line: inside a step they run ahead of
`SEQ`. It speaks of the history and the transport's two queues only. -/
structure HistoryAt (outstanding : Bool) (phase : LinePhase) (s : State) : Prop where
  port : follow portEvent false s.history = some outstanding
  line : follow lineEvent .rest s.history = some phase
  lineTx_eq : s.lineTx = written s.history
  lineRx_eq : arrivals s.history = (taken s.history).flatten ++ s.lineRx
  requests : ∀ f ∈ s.lineTx, ∃ sid addr, f = encodeRequest sid addr
  responses : ∀ w, Event.resp w ∈ s.history → legalResponse w = true

/-- Between two steps `SEQ` says where the port and the line stand. -/
theorem historyInv_iff (s : State) : HistoryInv s ↔ HistoryAt s.busy s.seq.phase s :=
  ⟨fun h => { h with }, fun h => { h with }⟩

/-- The same with the value of `SEQ` put in. -/
theorem HistoryInv.at_seq {s : State} (h : HistoryInv s) {q : Seq} (hs : s.seq = q) :
    HistoryAt (q != .idle) q.phase s := by
  subst hs
  exact (historyInv_iff s).1 h

/-! ### The checks of a history that grows -/

/-- A check goes on where it stood. -/
theorem follow_append {α : Type} {f : α → Event → Option α} {a b : α} {h : List Event} (hh : follow f a h = some b)
    (ev : List Event) : follow f a (h ++ ev) = follow f b ev := by
  unfold follow at hh ⊢
  rw [List.foldlM_append, hh]
  rfl

/-- Arriving bytes leave a check that ignores them where it stood. -/
theorem follow_arrivals {α : Type} {f : α → Event → Option α} {a : α} (hf : ∀ b, f a (.arrive b) = some a)
    (bytes : List Byte) : follow f a (bytes.map .arrive) = some a := by
  induction bytes with
  | nil => rfl
  | cons b bytes ih => exact (congrArg (· >>= _) (hf b)).trans ih

@[simp] theorem arrivals_append (h ev : List Event) : arrivals (h ++ ev) = arrivals h ++ arrivals ev :=
  List.filterMap_append

@[simp] theorem taken_append (h ev : List Event) : taken (h ++ ev) = taken h ++ taken ev := List.filterMap_append

@[simp] theorem written_append (h ev : List Event) : written (h ++ ev) = written h ++ written ev :=
  List.filterMap_append

@[simp] theorem arrivals_map_arrive (bytes : List Byte) : arrivals (bytes.map .arrive) = bytes := by
  simp [arrivals, List.filterMap_map]

@[simp] theorem taken_map_arrive (bytes : List Byte) : taken (bytes.map .arrive) = [] := by simp [taken]

@[simp] theorem written_map_arrive (bytes : List Byte) : written (bytes.map .arrive) = [] := by simp [written]

/-- Status `OK` with any data and every error with data zero make a legal response word (60_exceptions.md R205). -/
theorem legalResponse_responseWord {st : Status} {d : Half} (h : st = .ok ∨ d = 0) :
    legalResponse (responseWord st d) = true := by
  have hcode : [0x00, 0x01, 0x02, 0x03, 0x10, 0x11, 0x12, 0x13, 0xE0, 0xE1, 0xE2].contains st.code = true := by
    cases st with
    | decode d => cases d <;> rfl
    | read e =>
      cases e with
      | noResponse => rfl
      | malformed d => cases d <;> rfl
    | ok | illegalCommand | noFrame | noData => rfl
  have hdata : st.code = 0 ∨ d = 0 := h.imp_left (congrArg Status.code)
  simp only [legalResponse, opField_responseWord, aField_responseWord, immField_responseWord, hcode]
  simpa using hdata

/-! ### One rule for each operation that records an event -/

namespace HistoryAt

variable {s t : State} {b b' : Bool} {p p' : LinePhase}

/-- The rules below follow from it: an operation gives its events and what it does to the two queues. -/
theorem append (h : HistoryAt b p s) (ev : List Event) (history : t.history = s.history ++ ev)
    (port : follow portEvent b ev = some b') (line : follow lineEvent p ev = some p')
    (lineTx : t.lineTx = s.lineTx ++ written ev := by simp [written])
    (lineRx : s.lineRx ++ arrivals ev = (taken ev).flatten ++ t.lineRx := by simp [arrivals, taken])
    (requests : ∀ f ∈ written ev, ∃ sid addr, f = encodeRequest sid addr := by simp [written])
    (responses : ∀ w, Event.resp w ∈ ev → legalResponse w = true := by simp) : HistoryAt b' p' t where
  port := by rw [history, follow_append h.port, port]
  line := by rw [history, follow_append h.line, line]
  lineTx_eq := by rw [history, lineTx, h.lineTx_eq, written_append]
  lineRx_eq := by
    rw [history, arrivals_append, h.lineRx_eq, List.append_assoc, lineRx, taken_append, List.flatten_append,
      List.append_assoc]
  requests f hf := (List.mem_append.1 (lineTx ▸ hf)).elim (h.requests f) (requests f)
  responses w hw := (List.mem_append.1 (history ▸ hw)).elim (h.responses w) (responses w)

theorem accept (h : HistoryAt false p s) (w : Word) : HistoryAt true p (s.accept w) :=
  h.append [.cmd w] rfl rfl (by cases p <;> rfl)

theorem respond (h : HistoryAt true p s) {st : Status} {d : Half} (hst : st = .ok ∨ d = 0) :
    HistoryAt false p (s.respond st d) :=
  h.append [.resp (responseWord st d)] rfl rfl (by cases p <;> rfl)
    (responses := by simp [legalResponse_responseWord hst])

theorem raise (h : HistoryAt true p s) (st : Status) : HistoryAt false p (s.raise st) :=
  respond (s := { s with err := if st.writesErr then st.code else s.err, seq := .idle }) { h with } (.inr rfl)

theorem complete (h : HistoryAt true p s) (d : Half) : HistoryAt false p (s.complete d) :=
  respond (s := { s with err := Status.ok.code, seq := .idle }) { h with } (.inl rfl)

theorem deliver (h : HistoryAt true p s) (v : Half) : HistoryAt false p (s.deliver v) :=
  complete (s := { s with value := v, ok := true }) { h with } v

theorem setDirection_true (h : HistoryAt b .rest s) : HistoryAt b .enabled (s.setDirection true) :=
  h.append [.dir true] rfl (by cases b <;> rfl) rfl

theorem lineWrite (h : HistoryAt b .enabled s) {f : List Byte} (hf : ∃ sid addr, f = encodeRequest sid addr) :
    HistoryAt b .sent (s.lineWrite f) :=
  h.append [.tx f] rfl (by cases b <;> rfl) rfl (requests := by simpa [written] using hf)

theorem setDirection_false (h : HistoryAt b .sent s) : HistoryAt b .listening (s.setDirection false) :=
  h.append [.dir false] rfl (by cases b <;> rfl) rfl

theorem receive (h : HistoryAt b .listening s) : HistoryAt b .rest s.receive :=
  h.append [.rxRead s.lineRx] rfl (by cases b <;> rfl) rfl

theorem arrive (h : HistoryAt b p s) (bytes : List Byte) : HistoryAt b p (s.arrive bytes) :=
  h.append (bytes.map .arrive) rfl (follow_arrivals (by cases b <;> exact fun _ => rfl) bytes)
    (follow_arrivals (by cases p <;> exact fun _ => rfl) bytes)
    (lineTx := by simp) (lineRx := by simp) (requests := by simp)

theorem tickEvent (h : HistoryAt b p s) : HistoryAt b p s.tickEvent :=
  h.append [.tick] rfl (by cases b <;> rfl) (by cases p <;> rfl)

/-- `Reset` cancels a command and ends a transaction wherever they stand (70_reset_and_hazards.md R236). -/
theorem resetEvent (h : HistoryAt b p s) : HistoryAt false .rest s.resetEvent :=
  h.append [.reset] rfl (by cases b <;> rfl) (by cases p <;> rfl)

end HistoryAt

/-- `SEQ` is back to saying where the port and the line stand. -/
theorem HistoryInv.of_at {t : State} {b : Bool} {p : LinePhase} (h : HistoryAt b p t) (hb : t.busy = b)
    (hp : t.seq.phase = p) : HistoryInv t :=
  (historyInv_iff t).2 (hb ▸ hp ▸ h)

/-- The command was answered and the line is at rest. -/
theorem HistoryInv.of_idle {t : State} (h : HistoryAt false .rest t) (hs : t.seq = .idle) : HistoryInv t :=
  .of_at h (by simp [State.busy, hs]) (by simp [hs, Seq.phase])

/-- A command answered `OK` at once. -/
theorem HistoryInv.of_ok {s : State} (h : HistoryAt true .rest s) (hs : s.seq = .idle) (d : Half) :
    HistoryInv (s.respond .ok d) :=
  .of_idle (h.respond (.inl rfl)) hs

/-! ### The steps -/

/-- A command accepted in `IDLE` answers at once or starts a transaction, and touches the line in neither case. -/
theorem historyInv_exec {i : Instr} {s t : State} (h : HistoryAt true .rest s) (hs : s.seq = .idle)
    (hf : ∀ bytes, encode i ≠ .frame bytes) (hx : exec i s = .next t) : HistoryInv t := by
  rcases exec_inv hx with ⟨-, rfl⟩ | ⟨r, imm, -, -, rfl⟩ | ⟨r, imm, d, -, -, rfl⟩ | ⟨a, imm, -, rfl⟩ |
    ⟨a, imm, -, rfl⟩ | ⟨-, rfl⟩ | ⟨a, -, rfl⟩ | ⟨a, imm, d, -, rfl⟩ | ⟨-, -, rfl⟩ | ⟨-, -, rfl⟩ |
    ⟨v, -, -, rfl⟩ | ⟨d, -, -, rfl⟩ | ⟨a, imm, -, rfl⟩ | ⟨bytes, hb, -⟩
  · exact .of_ok h hs _
  · obtain ⟨ts, tr, rc, rd, e⟩ := setData_frame r imm s
    rw [e]
    exact .of_ok (s := { s with tSettle := ts, tResp := tr, retryCount := rc, retryDelay := rd }) { h with } hs imm
  · exact .of_ok h hs _
  · exact .of_idle (h.raise _) rfl
  · exact .of_idle (h.raise _) rfl
  · exact .of_ok (s := { s with crcacc := Config.crcInit }) { h with } hs _
  · exact .of_ok (s := { s with crcacc := crcStep s.crcacc a }) { h with } hs _
  · exact .of_ok (s := s.withRequest a imm) { h with } hs d
  · exact .of_at (b := true) (p := .rest) { h with } rfl rfl
  · exact .of_idle (h.raise _) rfl
  · exact .of_idle (.deliver (s := s.clearOk) { h with } v) rfl
  · exact .of_idle (.raise (s := s.clearOk) { h with } _) rfl
  · exact .of_at (b := true) (p := .rest) { h with } rfl rfl
  · exact absurd hb (hf bytes)

/-- Step `Dir(1)` takes the line. -/
theorem historyInv_stepDirOn {s : State} (h : HistoryAt true .rest s) : HistoryInv (stepDirOn s) := by
  have h' : HistoryAt true .enabled (stepDirOn s) := .setDirection_true { h with }
  exact .of_at h' rfl rfl

/-- Step `Tx` writes the request that `TXBUF` holds. -/
theorem historyInv_stepTx {s : State} (hr : RunInv s) (hbuf : BufferInv s) (h : HistoryAt true .enabled s)
    (hs : s.seq = .write) : HistoryInv (stepTx s) := by
  have hreq : s.request = encodeRequest s.slaveId s.regAddr := hbuf.request_eq (hr.txvalid_of_busy (by simp [hs]))
  have h' : HistoryAt true .sent (stepTx s) :=
    .lineWrite (s := { s with timer := s.tSettle, seq := .settle }) { h with } ⟨_, _, hreq⟩
  exact .of_at h' rfl rfl

/-- Step `Dir(0)` releases the line. -/
theorem historyInv_stepDirOff {s : State} (h : HistoryAt true .sent s) : HistoryInv (stepDirOff s) := by
  have h' : HistoryAt true .listening (stepDirOff s) := .setDirection_false { h with }
  exact .of_at h' rfl rfl

/-- Step `RxRead` takes what arrived, and answers an XACT. -/
theorem historyInv_stepRxRead {s : State} (h : HistoryAt true .listening s) : HistoryInv (stepRxRead s) := by
  rcases stepRxRead_cases s with ⟨-, e⟩ | ⟨-, e⟩ <;> rw [e]
  · exact .of_idle (h.receive.complete _) rfl
  · exact .of_at (b := true) (p := .rest) { h.receive with } rfl rfl

/-- Step `Eval` answers the READ or starts the delay of a retry. -/
theorem historyInv_stepEval {s : State} (h : HistoryAt true .rest s) : HistoryInv (stepEval s) := by
  rcases stepEval_cases s with ⟨v, -, e⟩ | ⟨r, -, -, e⟩ | ⟨r, -, -, e⟩ <;> rw [e]
  · exact .of_idle (h.deliver v) rfl
  · exact .of_idle (h.raise _) rfl
  · exact .of_at (b := true) (p := .rest) { h with } rfl rfl

/-- Step `Retry` records nothing: the line is at rest before the next attempt. -/
theorem historyInv_stepRetry {s : State} (h : HistoryAt true .rest s) : HistoryInv (stepRetry s) :=
  .of_at (b := true) (p := .rest) { h with } rfl rfl

/-- Every transition of the sequencer keeps the discipline. -/
theorem historyInv_sequencerStep {s : State} (hr : RunInv s) (hbuf : BufferInv s) (h : HistoryInv s) :
    HistoryInv (sequencerStep s) := by
  rcases sequencerStep_cases s with ⟨-, e⟩ | ⟨hs, e⟩ | ⟨hs, e⟩ | ⟨hs, -, e⟩ | ⟨hs, -, e⟩ | ⟨hs, e⟩ | ⟨hs, -, e⟩ |
    ⟨-, -, e⟩ <;> rw [e]
  · exact h
  · exact historyInv_stepDirOn (h.at_seq hs)
  · exact historyInv_stepTx hr hbuf (h.at_seq hs) hs
  · exact historyInv_stepDirOff (h.at_seq hs)
  · exact historyInv_stepRxRead (h.at_seq hs)
  · exact historyInv_stepEval (h.at_seq hs)
  · exact historyInv_stepRetry (h.at_seq hs)
  · exact h

theorem historyInv_startTurn {s : State} (h : HistoryInv s) : HistoryInv s.startTurn := { h with }

/-- Every step keeps the discipline of the command port and of the line. -/
theorem historyInv_step {s t : State} (hr : RunInv s) (hbuf : BufferInv s) (hinv : HistoryInv s)
    (hst : step s = .next t) : HistoryInv t := by
  have h : HistoryInv s.startTurn := historyInv_startTurn hinv
  rcases step_inv hst with ⟨-, rfl⟩ | ⟨-, rfl⟩ | ⟨bytes, -, rfl⟩ | ⟨-, -, -, rfl⟩ | ⟨w, -, -, -, hs, -, -, rfl⟩ |
    ⟨w, -, i, -, hs, -, hd, hx, -⟩ | ⟨-, -, rfl⟩
  · exact .of_at (h.at_seq rfl).tickEvent rfl rfl
  · exact .of_idle (h.at_seq rfl).resetEvent rfl
  · exact .of_at ((h.at_seq rfl).arrive bytes) rfl rfl
  · exact h
  · have accepted : HistoryAt true .rest (s.startTurn.accept w) := (h.at_seq hs).accept w
    exact .of_idle (accepted.raise _) rfl
  · exact historyInv_exec ((h.at_seq hs).accept w) hs (not_frame_of_decodeCommand hd) hx
  · exact historyInv_sequencerStep (runInv_startTurn hr) (bufferInv_startTurn hbuf) h

end Sys2Proof.Machine

namespace Sys2Proof.Proofs

open Sys2Proof.Machine

/-- Settles O42: each operation that records an event moves the two checks as `SEQ` says, and what `Tx` writes is the
request that the invariants of the sequencer and of the buffers find in `TXBUF`. -/
theorem stepKeepsHistoryInv : Obligations.StepKeepsHistoryInv := fun _ _ hr hbuf h hst => historyInv_step hr hbuf h hst

end Sys2Proof.Proofs
end

section
/-! What the frame buffers hold is read again (20_memory.md R55), and a truncated reception is no response (R60). -/

namespace Sys2Proof.Machine

/-- DEC by what the decoder says of `RXBUF[0..RXLEN-1]` (41_frame_codec.md R123). -/
theorem exec_dec_of_ok {s : State} {v : Half} (h : decodeResponse s.reception = .ok v) :
    exec .dec s = .next (s.clearOk.deliver v) := by
  simp [exec, execDec, h]

theorem exec_dec_of_error {s : State} {d : DecodeError} (h : decodeResponse s.reception = .error d) :
    exec .dec s = .next (s.clearOk.raise (.decode d)) := by
  simp [exec, execDec, h]

/-- Step `RxRead` stores the reception, whichever command is running (20_memory.md R60). -/
theorem stepRxRead_stores (s : State) : (stepRxRead s).rxovf = s.receive.rxovf ∧
    (stepRxRead s).rxlen = s.receive.rxlen ∧ (stepRxRead s).reception = s.receive.reception := by
  rcases stepRxRead_cases s with ⟨-, e⟩ | ⟨-, e⟩ <;> rw [e] <;> exact ⟨rfl, rfl, rfl⟩

/-- The block's turn when the response wait is over is the step `RxRead`. -/
theorem step_rxRead {s : State} (hturn : s.turn = .block) (hs : s.seq = .rxwait) (ht : s.timer = 0) :
    step s = .next (stepRxRead s.startTurn) := by
  rw [step_busy hturn (by simp [hs])]
  simp [sequencerStep, hs, ht]

end Sys2Proof.Machine

namespace Sys2Proof.Proofs

open Sys2Proof.Machine

/-- Settles O7: a decoded frame's meaning is the arrival of its bytes, which is what a LINE turn is. -/
theorem stepRunsArrivedFrame : Obligations.StepRunsArrivedFrame := by
  intro s bytes i hturn hd
  rw [step_line (turn_of_head? hturn)]
  exact (exec_of_decodeFrame hd _).symm

/-- Settles O23: DEC leaves the reception it decodes as it was, so that the second finds the same. -/
theorem decIdempotent : Obligations.DecIdempotent := by
  intro s t h
  cases hd : decodeResponse s.reception with
  | ok v =>
    rw [exec_dec_of_ok hd] at h
    cases h
    exact ⟨responseWord .ok v, rfl, exec_dec_of_ok (s := s.clearOk.deliver v) hd⟩
  | error d =>
    rw [exec_dec_of_error hd] at h
    cases h
    exact ⟨responseWord (.decode d) 0, rfl, exec_dec_of_error (s := s.clearOk.raise (.decode d)) hd⟩

/-- Settles O29: the bytes kept are `RXCAP`, at least 8, and a frame that decodes has 7. -/
theorem overflowNeverDecodes : Obligations.OverflowNeverDecodes := by
  intro s t hturn hs ht hover hst
  rw [step_rxRead (turn_eq_block_iff.2 hturn) hs ht] at hst
  cases hst
  obtain ⟨hovf, hlen, hrec⟩ := stepRxRead_stores s.startTurn
  have hcap : s.startTurn.receive.rxlen.toNat = s.params.rxcap :=
    (toNat_receive_rxlen _).trans (Nat.min_eq_right hover.le)
  refine ⟨hovf.trans (decide_eq_true hover), (congrArg BitVec.toNat hlen).trans hcap, fun v hv => ?_⟩
  rw [hrec] at hv
  have hseven : s.startTurn.receive.reception.length = 7 := (decodeResponse_eq_ok hv).1
  rw [length_reception, hcap] at hseven
  have := s.params.rxcap_legal.1
  omega

end Sys2Proof.Proofs
end

section
/-! Encoder and decoder of command words and wire frames: they are inverse to each other, and exactly the words of
30_encoding.md R79 and R90 are commands. -/

namespace Sys2Proof.Machine

/-! ### The checks on SET and GET (30_encoding.md R79) -/

/-- The check on a SET of a register of the map. -/
theorem setLegal_of_index (r : Reg) (imm : Half) :
    setLegal r.index imm = (r.writable && Nat.ble imm.toNat r.maxValue) := by
  simp [setLegal]

/-- A register that holds every 16-bit value takes every operand of a SET. -/
theorem setLegal_of_writable {r : Reg} (imm : Half) (hw : r.writable = true) (hmax : r.maxValue = 65535) :
    setLegal r.index imm = true := by
  rw [setLegal_of_index, hw, hmax, Bool.true_and, Nat.ble_eq]
  exact Nat.le_of_lt_succ imm.isLt

/-- Which SETs are legal, by index and value. -/
theorem setLegal_iff {a : Byte} {imm : Half} :
    setLegal a imm = true ↔ a = 0x00 ∨ a = 0x01 ∨ a = 0x03 ∨ (a = 0x02 ∧ imm.toNat ≤ 255) := by
  constructor
  · intro h
    cases hr : Reg.ofIndex a with
    | none => simp [setLegal, hr] at h
    | some r =>
      obtain rfl := index_of_ofIndex hr
      rcases setLegal_index h with rfl | rfl | ⟨rfl, hle⟩ | rfl
      · exact .inl rfl
      · exact .inr (.inl rfl)
      · exact .inr (.inr (.inr ⟨rfl, hle⟩))
      · exact .inr (.inr (.inl rfl))
  · rintro (rfl | rfl | rfl | ⟨rfl, hle⟩)
    · exact setLegal_of_writable (r := .tSettle) imm rfl rfl
    · exact setLegal_of_writable (r := .tResp) imm rfl rfl
    · exact setLegal_of_writable (r := .retryDelay) imm rfl rfl
    · exact (setLegal_of_index .retryCount imm).trans (by simpa [Reg.writable, Reg.maxValue] using hle)

/-- Which GETs are legal, by index and operand: a register with operand 0, or a byte of one of the two windows. -/
theorem getLegal_iff {cap : Nat} {a : Byte} {imm : Half} :
    getLegal cap a imm = true ↔
      (a ∈ [0x00, 0x01, 0x02, 0x03, 0x10, 0x11, 0x12, 0x13, 0x14, 0x15, 0x16, 0x17] ∧ imm = 0) ∨
      (a = 0x20 ∧ imm.toNat ≤ 7) ∨ (a = 0x30 ∧ imm.toNat < cap) := by
  constructor
  · intro h
    unfold getLegal at h
    split at h
    · cases h
    · next hr => exact .inr (.inl ⟨index_of_ofIndex hr, of_decide_eq_true h⟩)
    · next hr => exact .inr (.inr ⟨index_of_ofIndex hr, of_decide_eq_true h⟩)
    · next r htx hrx hr =>
      refine .inl ⟨?_, eq_of_beq h⟩
      rw [index_of_ofIndex hr]
      cases r
      case txbuf => exact absurd rfl htx
      case rxbuf => exact absurd rfl hrx
      all_goals decide
  · rintro (⟨ha, rfl⟩ | ⟨rfl, hle⟩ | ⟨rfl, hlt⟩)
    · simp only [List.mem_cons, List.not_mem_nil, or_false] at ha
      rcases ha with rfl | rfl | rfl | rfl | rfl | rfl | rfl | rfl | rfl | rfl | rfl | rfl <;> rfl
    · exact decide_eq_true hle
    · exact decide_eq_true hlt

end Sys2Proof.Machine

namespace Sys2Proof

open Machine

/-! ### Command words (30_encoding.md R77, R78, R90) -/

@[simp] theorem Opcode.opField_word (o : Opcode) (a : Byte) (imm : Half) : opField (o.word a imm) = o.code :=
  opField_mkWord _ _ _

@[simp] theorem Opcode.aField_word (o : Opcode) (a : Byte) (imm : Half) : aField (o.word a imm) = a :=
  aField_mkWord _ _ _

@[simp] theorem Opcode.immField_word (o : Opcode) (a : Byte) (imm : Half) : immField (o.word a imm) = imm :=
  immField_mkWord _ _ _

/-- The fields that are zero in format N (30_encoding.md R75). -/
theorem Format.fieldsOk_n {w : Word} : Format.n.fieldsOk w = true ↔ aField w = 0 ∧ immField w = 0 := by
  simp [Format.fieldsOk]

/-- The field that is zero in format B. -/
theorem Format.fieldsOk_b {w : Word} : Format.b.fieldsOk w = true ↔ immField w = 0 := beq_iff_eq

/-- The rows of format N (30_encoding.md R77). -/
theorem Opcode.format_eq_n_iff (o : Opcode) : o.format = .n ↔ o.code ∈ [0x00, 0x10, 0x21, 0x22] := by
  cases o <;> decide

/-- The row of format B. -/
theorem Opcode.format_eq_b_iff (o : Opcode) : o.format = .b ↔ o.code = 0x11 := by cases o <;> decide

/-- The nine opcodes of the table. -/
theorem Opcode.code_mem (o : Opcode) : o.code ∈ [0x00, 0x01, 0x02, 0x10, 0x11, 0x20, 0x21, 0x22, 0x30] := by
  cases o <;> decide

/-- A word with a row's opcode is that row's word with the two other fields as operands. -/
theorem Opcode.word_fields {o : Opcode} {w : Word} (h : opField w = o.code) : o.word (aField w) (immField w) = w := by
  rw [Opcode.word, ← h, mkWord_fields]

/-- The command of a row with the operands its format has (30_encoding.md R78), before any check. -/
def Opcode.instr (a : Byte) (imm : Half) : Opcode → Instr
  | .nop => .nop
  | .set => .set a imm
  | .get => .get a imm
  | .crcinit => .crcinit
  | .crcbyte => .crcbyte a
  | .enc => .enc a imm
  | .xact => .xact
  | .dec => .dec
  | .read => .read a imm

/-- Steps (3) and (4) of 30_encoding.md R90 answer the row's command where it is well-formed, and no other. -/
theorem Opcode.withOperands_eq_ok_iff {o : Opcode} {cap : Nat} {a : Byte} {imm : Half} {i : Instr} :
    o.withOperands cap a imm = .ok i ↔ o.instr a imm = i ∧ (o.instr a imm).wf cap = true := by
  cases o
  case set => by_cases h : setLegal a imm = true <;> simp [Opcode.withOperands, Opcode.instr, Instr.wf, h]
  case get => by_cases h : getLegal cap a imm = true <;> simp [Opcode.withOperands, Opcode.instr, Instr.wf, h]
  all_goals simp [Opcode.withOperands, Opcode.instr, Instr.wf]

/-- A word whose must-be-zero fields are zero is the encoding of its row's command. -/
theorem Opcode.encode_instr {o : Opcode} {w : Word} (hop : opField w = o.code) (hzero : o.format.fieldsOk w = true) :
    encode (o.instr (aField w) (immField w)) = .word w := by
  have hw := congrArg Packet.word (o.word_fields hop)
  cases o
  case nop | crcinit | xact | dec =>
    obtain ⟨ha, himm⟩ := Format.fieldsOk_n.1 hzero
    rwa [ha, himm] at hw
  case crcbyte => rwa [Format.fieldsOk_b.1 hzero] at hw
  case set | get | enc | read => exact hw

/-- Decoding of a command word, said once: its row, the must-be-zero fields, and the check of 30_encoding.md R79. -/
theorem decodeCommand_eq_ok_iff {cap : Nat} {w : Word} {i : Instr} :
    decodeCommand cap w = .ok i ↔ ∃ o : Opcode, opField w = o.code ∧ o.format.fieldsOk w = true ∧
      o.instr (aField w) (immField w) = i ∧ (o.instr (aField w) (immField w)).wf cap = true := by
  constructor
  · intro h
    unfold decodeCommand at h
    split at h
    · cases h
    · next o ho =>
      split at h
      · next hzero => exact ⟨o, code_of_ofCode ho, hzero, Opcode.withOperands_eq_ok_iff.1 h⟩
      · cases h
  · rintro ⟨o, hop, hzero, hi⟩
    simp [decodeCommand, hop, hzero, Opcode.withOperands_eq_ok_iff.2 hi]

/-- A decoded command is well-formed and encodes to the word it came from. -/
theorem encode_of_decodeCommand {cap : Nat} {w : Word} {i : Instr} (h : decodeCommand cap w = .ok i) :
    i.wf cap = true ∧ encode i = .word w := by
  obtain ⟨o, hop, hzero, rfl, hwf⟩ := decodeCommand_eq_ok_iff.1 h
  exact ⟨hwf, Opcode.encode_instr hop hzero⟩

/-- The word of a row decodes to the row's command. -/
theorem decodeCommand_word (cap : Nat) {o : Opcode} {a : Byte} {imm : Half}
    (hzero : o.format.fieldsOk (o.word a imm) = true) (hwf : (o.instr a imm).wf cap = true) :
    decodeCommand cap (o.word a imm) = .ok (o.instr a imm) :=
  decodeCommand_eq_ok_iff.2 ⟨o, by simp, hzero, by simp, by simpa using hwf⟩

/-- Which words are commands: one whose must-be-zero fields are zero and whose operands pass the check of their row. -/
theorem exists_decodeCommand_iff {cap : Nat} {w : Word} :
    (∃ i, decodeCommand cap w = .ok i) ↔ ∃ o : Opcode, opField w = o.code ∧ o.format.fieldsOk w = true ∧
      (o.instr (aField w) (immField w)).wf cap = true := by
  constructor
  · rintro ⟨i, h⟩
    obtain ⟨o, hop, hzero, -, hwf⟩ := decodeCommand_eq_ok_iff.1 h
    exact ⟨o, hop, hzero, hwf⟩
  · rintro ⟨o, hop, hzero, hwf⟩
    exact ⟨_, decodeCommand_eq_ok_iff.2 ⟨o, hop, hzero, rfl, hwf⟩⟩

/-- A word is illegal where no row with its opcode has the zero fields it needs: decoding is total. -/
theorem exists_error_of_fieldsOk {cap : Nat} {w : Word}
    (h : ∀ o : Opcode, opField w = o.code → o.format.fieldsOk w ≠ true) : ∃ e, decodeCommand cap w = .error e := by
  cases hd : decodeCommand cap w with
  | error e => exact ⟨e, rfl⟩
  | ok i =>
    obtain ⟨o, hop, hzero, -⟩ := decodeCommand_eq_ok_iff.1 hd
    exact absurd hzero (h o hop)

/-- A word whose opcode is none of the nine is illegal. -/
theorem exists_error_of_opcode {cap : Nat} {w : Word}
    (h : opField w ∉ [0x00, 0x01, 0x02, 0x10, 0x11, 0x20, 0x21, 0x22, 0x30]) :
    ∃ e, decodeCommand cap w = .error e :=
  exists_error_of_fieldsOk fun o hop => absurd (hop ▸ o.code_mem) h

/-- A word of format N with another bit set is illegal. -/
theorem exists_error_of_format_n {cap : Nat} {w : Word} (hop : opField w ∈ [0x00, 0x10, 0x21, 0x22])
    (h : aField w ≠ 0 ∨ immField w ≠ 0) : ∃ e, decodeCommand cap w = .error e :=
  exists_error_of_fieldsOk fun o ho hzero => by
    rw [o.format_eq_n_iff.2 (ho ▸ hop), Format.fieldsOk_n] at hzero
    exact h.elim (absurd hzero.1) (absurd hzero.2)

/-- A word of format B with a nonzero `imm` is illegal. -/
theorem exists_error_of_format_b {cap : Nat} {w : Word} (hop : opField w = 0x11) (h : immField w ≠ 0) :
    ∃ e, decodeCommand cap w = .error e :=
  exists_error_of_fieldsOk fun o ho hzero => by
    rw [o.format_eq_b_iff.2 (ho ▸ hop), Format.fieldsOk_b] at hzero
    exact h hzero

/-! ### Wire frames (30_encoding.md R83, R84) -/

/-- A sequence with its CRC appended passes the check of its last two bytes. -/
@[simp] theorem crcMatches_crcAppend (s : List Byte) : crcMatches (crcAppend s) = true := by
  simp [crcMatches, crcAppend]

/-- A request on the wire decodes to its row's instruction. -/
theorem decodeFrame_encodeRequest (sid : Byte) (addr : Half) :
    decodeFrame (encodeRequest sid addr) = .ok (.req03 sid addr) := by
  have hcrc : crcMatches (encodeRequest sid addr) = true := crcMatches_crcAppend _
  calc decodeFrame (encodeRequest sid addr)
    _ = if crcMatches (encodeRequest sid addr) then .ok (.req03 sid (join (hi addr) (lo addr)))
        else .error .frameCrc := rfl
    _ = .ok (.req03 sid addr) := by rw [if_pos hcrc, join_hi_lo]

/-- A response on the wire decodes to its row's instruction. -/
theorem decodeFrame_encodeResponse (sid fc : Byte) (v : Half) :
    decodeFrame (encodeResponse sid fc v) = .ok (.rsp03 sid fc v) := by
  have hcrc : crcMatches (encodeResponse sid fc v) = true := crcMatches_crcAppend _
  calc decodeFrame (encodeResponse sid fc v)
    _ = if crcMatches (encodeResponse sid fc v) then .ok (.rsp03 sid fc (join (hi v) (lo v)))
        else .error .frameCrc := rfl
    _ = .ok (.rsp03 sid fc v) := by rw [if_pos hcrc, join_hi_lo]

/-- Every instruction that is a frame on the line is well-formed: only SET and GET have a check. -/
theorem wf_of_encode_eq_frame {cap : Nat} {i : Instr} {bytes : List Byte} (h : encode i = .frame bytes) :
    i.wf cap = true := by
  cases i
  case set | get => cases h
  all_goals rfl

/-! ### The two together -/

/-- Decoding undoes encoding. -/
theorem decode_encode {cap : Nat} {i : Instr} (hwf : i.wf cap = true) : decode cap (encode i) = .ok i := by
  cases i with
  | nop => exact decodeCommand_word cap (o := .nop) (a := 0) (imm := 0) rfl rfl
  | set a imm => exact decodeCommand_word cap (o := .set) rfl hwf
  | get a imm => exact decodeCommand_word cap (o := .get) rfl hwf
  | crcinit => exact decodeCommand_word cap (o := .crcinit) (a := 0) (imm := 0) rfl rfl
  | crcbyte a => exact decodeCommand_word cap (o := .crcbyte) (Format.fieldsOk_b.2 (Opcode.immField_word _ _ _)) rfl
  | enc a imm => exact decodeCommand_word cap (o := .enc) rfl rfl
  | xact => exact decodeCommand_word cap (o := .xact) (a := 0) (imm := 0) rfl rfl
  | dec => exact decodeCommand_word cap (o := .dec) (a := 0) (imm := 0) rfl rfl
  | read a imm => exact decodeCommand_word cap (o := .read) rfl rfl
  | req03 sid addr => exact decodeFrame_encodeRequest sid addr
  | rsp03 sid fc v => exact decodeFrame_encodeResponse sid fc v

/-- A packet that spells a well-formed instruction decodes to it. -/
theorem decode_of_encode_eq (cap : Nat) {i : Instr} {p : Packet} (hwf : i.wf cap = true) (hp : encode i = p) :
    decode cap p = .ok i := hp ▸ decode_encode hwf

/-- Encoding undoes decoding, and only well-formed instructions are decoded. -/
theorem encode_decode {cap : Nat} {p : Packet} {i : Instr} (h : decode cap p = .ok i) :
    i.wf cap = true ∧ encode i = p := by
  cases p with
  | word w => exact encode_of_decodeCommand h
  | frame bytes =>
    have he : encode i = .frame bytes := encode_of_decodeFrame h
    exact ⟨wf_of_encode_eq_frame he, he⟩

/-- Exactly which words are commands, field by field (30_encoding.md R79, R90). -/
theorem exists_decodeCommand_iff_fields {cap : Nat} {w : Word} :
    (∃ i, decodeCommand cap w = .ok i) ↔
      ((opField w = 0x00 ∨ opField w = 0x10 ∨ opField w = 0x21 ∨ opField w = 0x22) ∧ aField w = 0 ∧ immField w = 0) ∨
      (opField w = 0x01 ∧ setLegal (aField w) (immField w) = true) ∨
      (opField w = 0x02 ∧ getLegal cap (aField w) (immField w) = true) ∨
      (opField w = 0x11 ∧ immField w = 0) ∨
      opField w = 0x20 ∨ opField w = 0x30 := by
  rw [exists_decodeCommand_iff]
  constructor
  · rintro ⟨o, hop, hzero, hwf⟩
    cases o with
    | nop => exact .inl ⟨.inl hop, Format.fieldsOk_n.1 hzero⟩
    | set => exact .inr (.inl ⟨hop, hwf⟩)
    | get => exact .inr (.inr (.inl ⟨hop, hwf⟩))
    | crcinit => exact .inl ⟨.inr (.inl hop), Format.fieldsOk_n.1 hzero⟩
    | crcbyte => exact .inr (.inr (.inr (.inl ⟨hop, Format.fieldsOk_b.1 hzero⟩)))
    | enc => exact .inr (.inr (.inr (.inr (.inl hop))))
    | xact => exact .inl ⟨.inr (.inr (.inl hop)), Format.fieldsOk_n.1 hzero⟩
    | dec => exact .inl ⟨.inr (.inr (.inr hop)), Format.fieldsOk_n.1 hzero⟩
    | read => exact .inr (.inr (.inr (.inr (.inr hop))))
  · rintro (⟨hop | hop | hop | hop, hzero⟩ | ⟨hop, hl⟩ | ⟨hop, hl⟩ | ⟨hop, himm⟩ | hop | hop)
    · exact ⟨.nop, hop, Format.fieldsOk_n.2 hzero, rfl⟩
    · exact ⟨.crcinit, hop, Format.fieldsOk_n.2 hzero, rfl⟩
    · exact ⟨.xact, hop, Format.fieldsOk_n.2 hzero, rfl⟩
    · exact ⟨.dec, hop, Format.fieldsOk_n.2 hzero, rfl⟩
    · exact ⟨.set, hop, rfl, hl⟩
    · exact ⟨.get, hop, rfl, hl⟩
    · exact ⟨.crcbyte, hop, Format.fieldsOk_b.2 himm, rfl⟩
    · exact ⟨.enc, hop, rfl, rfl⟩
    · exact ⟨.read, hop, rfl, rfl⟩

end Sys2Proof

namespace Sys2Proof.Proofs

open Sys2Proof.Machine

/-- Settles O2: a command's word has its row's opcode and zero fields, a frame its row's bytes and CRC. -/
theorem decodeOfEncode : Obligations.DecodeOfEncode := fun _ _ hwf => decode_encode hwf

/-- Settles O3: a decoded word is its three fields, a decoded frame its bytes with their CRC. -/
theorem encodeOfDecode : Obligations.EncodeOfDecode := fun _ _ _ h => encode_decode h

/-- Settles O4: the rows' must-be-zero fields, with the checks on SET and GET said by index. -/
theorem commandWordsLegalExactly : Obligations.CommandWordsLegalExactly := by
  refine ⟨fun _ _ _ h => (encode_of_decodeCommand h).2, fun cap w => ?_⟩
  rw [exists_decodeCommand_iff_fields, setLegal_iff, getLegal_iff]

/-- Settles O1: each is what its instruction encodes to. -/
theorem tableWordsDecode : Obligations.TableWordsDecode :=
  ⟨decode_of_encode_eq 256 (p := .word 0x00000000) rfl rfl,
    decode_of_encode_eq 256 (p := .word 0x010100C8) rfl rfl,
    decode_of_encode_eq 256 (p := .word 0x02300004) rfl rfl,
    decode_of_encode_eq 256 (p := .word 0x10000000) rfl rfl,
    decode_of_encode_eq 256 (p := .word 0x11AB0000) rfl rfl,
    decode_of_encode_eq 256 (p := .word 0x20F71234) rfl rfl,
    decode_of_encode_eq 256 (p := .word 0x21000000) rfl rfl,
    decode_of_encode_eq 256 (p := .word 0x22000000) rfl rfl,
    decode_of_encode_eq 256 (p := .word 0x30011006) rfl rfl,
    decode_of_encode_eq 256 (p := .frame [0x01, 0x03, 0x10, 0x00, 0x00, 0x01, 0x80, 0xCA]) rfl (by decide +kernel),
    decode_of_encode_eq 256 (p := .frame [0x01, 0x03, 0x02, 0x12, 0x34, 0xB5, 0x33]) rfl (by decide +kernel)⟩

end Sys2Proof.Proofs
end

section
/-! What the block's turn does with the word on the command port (30_encoding.md R76, R86): it is taken in `IDLE` only,
and an illegal word is answered at once. -/

namespace Sys2Proof.Machine

/-- Error entry of an illegal command in `IDLE` is its answer and nothing else (30_encoding.md R86). -/
theorem raise_illegalCommand_of_idle {s : State} (hs : s.seq = .idle) :
    s.raise .illegalCommand = Claims.answered 0xE0000000 s := by
  cases s
  cases hs
  rfl

/-- The state in which an accepted word runs: the turn is spent, the word is gone and recorded. -/
theorem startTurn_accept {s : State} {w : Word} {ws : List Word} (hc : s.hostCmds = w :: ws) :
    s.startTurn.accept w =
      { Claims.turnTaken s with hostCmds := ws, history := s.history ++ [.cmd w] } := by
  simp [State.accept, State.startTurn, Claims.turnTaken, hc]

/-! ### The host's words -/

/-- The commands a history records, in order. -/
def recordedCmds (h : List Event) : List Event := h.filter (fun e => e matches .cmd _)

@[simp] theorem recordedCmds_append (h ev : List Event) :
    recordedCmds (h ++ ev) = recordedCmds h ++ recordedCmds ev := List.filter_append _ _

/-- `t` has the host's words and the commands recorded from `s`. -/
structure HostHeld (s t : State) : Prop where
  hostCmds : t.hostCmds = s.hostCmds
  cmds : recordedCmds t.history = recordedCmds s.history

/-- Recording events that are no acceptance. -/
theorem HostHeld.of_append {s t : State} (ev : List Event) (hostCmds : t.hostCmds = s.hostCmds)
    (history : t.history = s.history ++ ev) (hev : recordedCmds ev = []) : HostHeld s t :=
  ⟨hostCmds, by rw [history, recordedCmds_append, hev, List.append_nil]⟩

/-- An answer takes no word. -/
theorem HostHeld.of_respond {s t : State} {st : Status} {d : Half} (hostCmds : t.hostCmds = s.hostCmds)
    (history : t.history = s.history ++ [.resp (responseWord st d)]) : HostHeld s t :=
  .of_append _ hostCmds history rfl

/-- Arriving bytes take no word. -/
theorem hostHeld_arrive (s : State) (bytes : List Byte) : HostHeld s (s.arrive bytes) :=
  .of_append (bytes.map .arrive) rfl rfl (by simp [recordedCmds])

/-- No instruction's meaning takes a word: acceptance came before it. -/
theorem hostHeld_exec {i : Instr} {s t : State} (h : exec i s = .next t) : HostHeld s t := by
  rcases exec_inv h with ⟨-, rfl⟩ | ⟨r, imm, -, -, rfl⟩ | ⟨r, imm, d, -, -, rfl⟩ | ⟨a, imm, -, rfl⟩ |
    ⟨a, imm, -, rfl⟩ | ⟨-, rfl⟩ | ⟨a, -, rfl⟩ | ⟨a, imm, d, -, rfl⟩ | ⟨-, -, rfl⟩ | ⟨-, -, rfl⟩ |
    ⟨v, -, -, rfl⟩ | ⟨d, -, -, rfl⟩ | ⟨a, imm, -, rfl⟩ | ⟨bytes, -, rfl⟩
  · exact .of_respond rfl rfl
  · obtain ⟨ts, tr, rc, rd, e⟩ := setData_frame r imm s
    rw [e]
    exact .of_respond rfl rfl
  · exact .of_respond rfl rfl
  · exact .of_respond rfl rfl
  · exact .of_respond rfl rfl
  · exact .of_respond rfl rfl
  · exact .of_respond rfl rfl
  · exact .of_respond rfl rfl
  · exact ⟨rfl, rfl⟩
  · exact .of_respond rfl rfl
  · exact .of_respond rfl rfl
  · exact .of_respond rfl rfl
  · exact ⟨rfl, rfl⟩
  · exact hostHeld_arrive s bytes

/-- Step `RxRead` takes no word. -/
theorem hostHeld_stepRxRead (s : State) : HostHeld s (stepRxRead s) := by
  rcases stepRxRead_cases s with ⟨-, e⟩ | ⟨-, e⟩ <;> rw [e]
  · exact .of_append [.rxRead s.lineRx, .resp _] rfl (List.append_assoc _ _ _) rfl
  · exact .of_append [.rxRead s.lineRx] rfl rfl rfl

/-- Step `Eval` takes no word. -/
theorem hostHeld_stepEval (s : State) : HostHeld s (stepEval s) := by
  rcases stepEval_cases s with ⟨v, -, e⟩ | ⟨r, -, -, e⟩ | ⟨r, -, -, e⟩ <;> rw [e]
  · exact .of_respond rfl rfl
  · exact .of_respond rfl rfl
  · exact ⟨rfl, rfl⟩

/-- No transition of the sequencer takes a word. -/
theorem hostHeld_sequencerStep (s : State) : HostHeld s (sequencerStep s) := by
  rcases sequencerStep_cases s with ⟨-, e⟩ | ⟨-, e⟩ | ⟨-, e⟩ | ⟨-, -, e⟩ | ⟨-, -, e⟩ | ⟨-, e⟩ | ⟨-, -, e⟩ |
    ⟨-, -, e⟩ <;> rw [e]
  · exact ⟨rfl, rfl⟩
  · exact .of_append [.dir true] rfl rfl rfl
  · exact .of_append [.tx s.request] rfl rfl rfl
  · exact .of_append [.dir false] rfl rfl rfl
  · exact hostHeld_stepRxRead s
  · exact hostHeld_stepEval s
  · exact ⟨rfl, rfl⟩
  · exact ⟨rfl, rfl⟩

/-- The start of a turn takes no word. -/
theorem HostHeld.of_startTurn {s t : State} (h : HostHeld s.startTurn t) : HostHeld s t := { h with }

/-- `t` has one word of the host's less than `s`, taken from the port in `IDLE` and recorded. -/
def Accepted (s t : State) : Prop :=
  s.turn = .block ∧ s.seq = .idle ∧ ∃ w, s.hostCmds = w :: t.hostCmds ∧
    recordedCmds t.history = recordedCmds s.history ++ [.cmd w]

/-- What follows the acceptance of the word on the port takes no other. -/
theorem HostHeld.accepted {s t : State} {w : Word} {ws : List Word} (h : HostHeld (s.startTurn.accept w) t)
    (hturn : s.turn = .block) (hs : s.seq = .idle) (hc : s.hostCmds = w :: ws) : Accepted s t :=
  ⟨hturn, hs, w, by rw [h.hostCmds]; simp [hc], by rw [h.cmds]; exact recordedCmds_append _ _⟩

/-- Every step holds the host's words or takes the first of them. -/
theorem hostHeld_or_accepted {s t : State} (h : step s = .next t) : HostHeld s t ∨ Accepted s t := by
  rcases step_inv h with ⟨-, rfl⟩ | ⟨-, rfl⟩ | ⟨bytes, -, rfl⟩ | ⟨-, -, -, rfl⟩ |
    ⟨w, ws, -, hturn, hs, hc, -, rfl⟩ | ⟨w, ws, i, hturn, hs, hc, -, hx, -⟩ | ⟨-, -, rfl⟩
  · exact .inl (.of_append [.tick] rfl rfl rfl)
  · exact .inl (.of_append [.reset] rfl rfl rfl)
  · exact .inl (hostHeld_arrive s.startTurn bytes).of_startTurn
  · exact .inl ⟨rfl, rfl⟩
  · exact .inr (HostHeld.accepted (.of_respond rfl rfl) hturn hs hc)
  · exact .inr ((hostHeld_exec hx).accepted hturn hs hc)
  · exact .inl (hostHeld_sequencerStep s.startTurn).of_startTurn

/-- A busy block's step has a next state: it runs no command. -/
theorem exists_step_of_busy {s : State} (hs : s.seq ≠ .idle) : ∃ t, step s = .next t := by
  cases hturn : s.turn with
  | tick => exact ⟨_, step_tick hturn⟩
  | reset => exact ⟨_, step_reset hturn⟩
  | line bytes => exact ⟨_, step_line hturn⟩
  | block => exact ⟨_, step_busy hturn hs⟩

end Sys2Proof.Machine

namespace Sys2Proof.Proofs

open Sys2Proof.Machine

/-- Settles O5: the illegal word's turn is acceptance and error entry, and each family fails in its fields. -/
theorem illegalWordAnswered : Obligations.IllegalWordAnswered := by
  refine ⟨fun s w ws e hturn hs hc hd => ?_, fun _ _ => exists_error_of_opcode, fun _ _ => exists_error_of_format_n,
    fun _ _ => exists_error_of_format_b⟩
  have hanswer : answerIllegal (s.startTurn.accept w) = Claims.answered 0xE0000000 (s.startTurn.accept w) :=
    raise_illegalCommand_of_idle hs
  rw [step_illegal (turn_eq_block_iff.2 hturn) hs hc hd, hanswer, startTurn_accept hc]

/-- Settles O6: the accepted command runs at the state after acceptance. -/
theorem stepRunsAcceptedCommand : Obligations.StepRunsAcceptedCommand := by
  intro s w ws i hturn hs hc hd
  rw [step_accept (turn_eq_block_iff.2 hturn) hs hc hd, startTurn_accept hc]

/-- Settles O8: a step holds the host's words or accepts the first, and it accepts in `IDLE` only. -/
theorem hostHeldWhileBusy : Obligations.HostHeldWhileBusy := by
  refine ⟨fun s hs => ?_, fun s t hst hne => ?_⟩
  · obtain ⟨t, hst⟩ := exists_step_of_busy hs
    rcases hostHeld_or_accepted hst with hheld | ⟨-, hidle, -⟩
    · exact ⟨t, hst, hheld.hostCmds, hheld.cmds⟩
    · exact absurd hidle hs
  · rcases hostHeld_or_accepted hst with hheld | ⟨hturn, hidle, w, hw, hcmds⟩
    · exact absurd hheld.hostCmds hne
    · exact ⟨hidle, turn_eq_block_iff.1 hturn, w, hw, hcmds⟩

/-- Settles O38: each row's meaning is the arrival of its encoding, whose bytes are the frame's. -/
theorem wireFramesArrive : Obligations.WireFramesArrive := by
  constructor
  · rintro s sid addr _ rfl
    rfl
  · rintro s sid fc v _ rfl
    rfl

end Sys2Proof.Proofs
end

section
/-! The algebra of the CRC (40_crc16.md R101, R104): a round is linear over XOR and injective, so that the byte step has
its table form, an appended CRC leaves no residue, and no error inside one byte goes unseen. -/

namespace Sys2Proof.Machine

/-! ### Rounds -/

/-- Bit `i` after a round: the bit above it, and the polynomial's where bit 0 was set (40_crc16.md R101). -/
theorem getLsbD_crcRound (c : Half) (i : Nat) :
    (crcRound c).getLsbD i = (c.getLsbD (i + 1) ^^ (c.getLsbD 0 && Config.crcPoly.getLsbD i)) := by
  unfold crcRound
  cases c.getLsbD 0 <;> simp [Nat.add_comm 1 i]

/-- A round is linear over XOR. -/
theorem crcRound_xor (c d : Half) : crcRound (c ^^^ d) = crcRound c ^^^ crcRound d := by
  apply BitVec.eq_of_getLsbD_eq
  intro i _
  simp only [getLsbD_crcRound, BitVec.getLsbD_xor, Bool.and_xor_distrib_right, Bool.xor_assoc, Bool.xor_left_comm]

/-- A round loses nothing: the polynomial has bit 15, so the top bit of the result is the bit that was shifted out. -/
theorem crcRound_injective : Function.Injective crcRound := by
  intro c d h
  have round_bit (i : Nat) := congrArg (fun x : Half => x.getLsbD i) h
  simp only [getLsbD_crcRound] at round_bit
  have bit_zero : c.getLsbD 0 = d.getLsbD 0 := by simpa [Config.crcPoly] using round_bit 15
  apply BitVec.eq_of_getLsbD_eq
  intro i _
  cases i with
  | zero => exact bit_zero
  | succ i =>
    have bit_succ := round_bit i
    rwa [bit_zero, Bool.xor_left_inj] at bit_succ

@[simp] theorem crcRounds_zero (n : Nat) : crcRounds n 0 = 0 := by
  induction n with
  | zero => rfl
  | succ n ih => exact ih

theorem crcRounds_xor (n : Nat) (c d : Half) : crcRounds n (c ^^^ d) = crcRounds n c ^^^ crcRounds n d := by
  induction n generalizing c d with
  | zero => rfl
  | succ n ih => simp only [crcRounds, crcRound_xor, ih]

theorem crcRounds_injective (n : Nat) : Function.Injective (crcRounds n) := by
  induction n with
  | zero => exact Function.injective_id
  | succ n ih => exact ih.comp crcRound_injective

/-- Rounds that find bit 0 clear are plain shifts. -/
theorem crcRounds_eq_ushiftRight (n : Nat) {c : Half} (h : ∀ i < n, c.getLsbD i = false) : crcRounds n c = c >>> n := by
  induction n generalizing c with
  | zero => simp [crcRounds]
  | succ n ih =>
    have hround : crcRound c = c >>> 1 := by rw [crcRound, h 0 (Nat.succ_pos n)]; rfl
    have hlow : ∀ i < n, (c >>> 1).getLsbD i = false := fun i hi => by
      rw [BitVec.getLsbD_ushiftRight]
      exact h (1 + i) (by omega)
    rw [crcRounds, hround, ih hlow, ← BitVec.shiftRight_add, Nat.add_comm]

/-- Eight rounds shift the high byte down and look the low byte up (40_crc16.md R104 item 4). -/
theorem crcRounds_eight (c : Half) : crcRounds 8 c = (c >>> 8) ^^^ crcRounds 8 (c &&& 0x00FF) := by
  have hmask : ∀ i < 8, (0x00FF : Half).getLsbD i = true := by decide
  have hlow : ∀ i < 8, (c ^^^ (c &&& 0x00FF)).getLsbD i = false := fun i hi => by
    rw [BitVec.getLsbD_xor, BitVec.getLsbD_and, hmask i hi, Bool.and_true, Bool.xor_self]
  calc crcRounds 8 c
    _ = crcRounds 8 ((c ^^^ (c &&& 0x00FF)) ^^^ (c &&& 0x00FF)) := by
      rw [BitVec.xor_assoc, BitVec.xor_self, BitVec.xor_zero]
    _ = (c ^^^ (c &&& 0x00FF)) >>> 8 ^^^ crcRounds 8 (c &&& 0x00FF) := by
      rw [crcRounds_xor, crcRounds_eq_ushiftRight 8 hlow]
    _ = (c >>> 8) ^^^ crcRounds 8 (c &&& 0x00FF) := by
      simp [BitVec.ushiftRight_xor_distrib, BitVec.ushiftRight_and_distrib]

/-! ### Byte steps -/

/-- A byte is shifted out by eight. -/
theorem zext16_ushiftRight_eight (b : Byte) : zext16 b >>> 8 = 0 := by
  apply BitVec.eq_of_getLsbD_eq
  intro i _
  simp [zext16]

/-- Zero extension loses nothing. -/
theorem zext16_injective : Function.Injective zext16 := by
  intro b d h
  have hwidth : (zext16 b).setWidth 8 = (zext16 d).setWidth 8 := congrArg (BitVec.setWidth 8) h
  simpa [zext16] using hwidth

/-- The table form of the byte step (40_crc16.md R104 item 4). -/
theorem crcStep_eq_table (c : Half) (b : Byte) :
    crcStep c b = (c >>> 8) ^^^ crcRounds 8 ((c ^^^ zext16 b) &&& 0x00FF) := by
  rw [crcStep, crcRounds_eight, BitVec.ushiftRight_xor_distrib, zext16_ushiftRight_eight]
  simp

/-- Two accumulators that differ still differ after the same byte. -/
theorem crcStep_injective_left (b : Byte) : Function.Injective (fun c => crcStep c b) :=
  fun _ _ h => (BitVec.xor_left_inj _).1 (crcRounds_injective 8 h)

/-- Two bytes that differ take an accumulator to different values. -/
theorem crcStep_injective_right (c : Half) : Function.Injective (crcStep c) :=
  fun _ _ h => zext16_injective ((BitVec.xor_right_inj c).1 (crcRounds_injective 8 h))

/-! ### Sequences -/

theorem crcFrom_append (c : Half) (s t : List Byte) : crcFrom c (s ++ t) = crcFrom (crcFrom c s) t := List.foldl_append

theorem crcFrom_injective (s : List Byte) : Function.Injective (fun c => crcFrom c s) := by
  induction s with
  | nil => exact Function.injective_id
  | cons b s ih => exact ih.comp (crcStep_injective_left b)

/-- An error inside one byte changes the CRC. -/
theorem eq_of_crc16_eq {before after : List Byte} {b d : Byte}
    (h : crc16 (before ++ b :: after) = crc16 (before ++ d :: after)) : b = d := by
  simp only [crc16, crcFrom_append] at h
  exact crcStep_injective_right _ (crcFrom_injective after h)

/-- The low byte of the accumulator leaves its high byte. -/
theorem crcStep_lo (c : Half) : crcStep c (lo c) = c >>> 8 := by
  have hlow : ∀ i < 8, (c ^^^ zext16 (lo c)).getLsbD i = false := fun i hi => by
    simp [zext16, lo, hi, Nat.lt_trans hi]
  rw [crcStep, crcRounds_eq_ushiftRight 8 hlow, BitVec.ushiftRight_xor_distrib, zext16_ushiftRight_eight]
  simp

/-- The high byte then leaves nothing. -/
theorem crcStep_hi (c : Half) : crcStep (c >>> 8) (hi c) = 0 := by
  have hhi : c >>> 8 = zext16 (hi c) := by
    apply BitVec.eq_of_getLsbD_eq
    intro i hi
    rcases Nat.lt_or_ge i 8 with hlt | hge
    · simp [zext16, Machine.hi, hi, hlt]
    · simp [zext16, Machine.hi, BitVec.getLsbD_of_ge c (8 + i) (Nat.add_le_add_left hge 8)]
  rw [crcStep, hhi, BitVec.xor_self, ← BitVec.ofNat_eq_ofNat, crcRounds_zero]

/-- An accumulator fed its own two bytes, low byte first, ends at 0 (40_crc16.md R104 item 3). -/
theorem crcFrom_crcBytes (c : Half) : crcFrom c (crcBytes c) = 0 := by
  simp only [crcFrom, crcBytes, List.foldl_cons, List.foldl_nil]
  rw [crcStep_lo, crcStep_hi]

theorem crc16_crcAppend (s : List Byte) : crc16 (crcAppend s) = 0 := by
  rw [crc16, crcAppend, crcFrom_append]
  exact crcFrom_crcBytes _

/-- What passes the check of its last two bytes has CRC 0. -/
theorem crc16_eq_zero_of_crcMatches {s : List Byte} (h : crcMatches s = true) : crc16 s = 0 := by
  rw [eq_crcAppend_of_crcMatches h]
  exact crc16_crcAppend _

/-- A flipped bit changes its byte. -/
theorem xor_bit_ne (b : Byte) (k : Nat) : b ^^^ (1#8 <<< (k % 8)) ≠ b := by
  intro h
  have hzero : 1#8 <<< (k % 8) = 0#8 := by simpa using h
  have hbit : ∀ j < 8, 1#8 <<< j ≠ 0#8 := by decide
  exact hbit _ (Nat.mod_lt k (by decide)) hzero

end Sys2Proof.Machine

namespace Sys2Proof.Proofs

open Sys2Proof.Machine

/-- Settles O14: the rounds are linear, and on the high byte alone they are a shift. -/
theorem crcStepTableForm : Obligations.CrcStepTableForm := by
  unfold Obligations.CrcStepTableForm
  exact ⟨crcStep_eq_table, by decide⟩

/-- Settles O15: the accumulator meets its own two bytes. -/
theorem appendedCrcLeavesNoResidue : Obligations.AppendedCrcLeavesNoResidue :=
  fun s => ⟨crcMatches_crcAppend s, crc16_crcAppend s⟩

/-- Settles O16: a frame that passes the check has CRC 0, and so has the frame without the error; but the two differ in
one byte, and so in their CRC. -/
theorem singleBitErrorsDetected : Obligations.SingleBitErrorsDetected := by
  intro s k hk
  obtain ⟨before, b, after, hframe, -, hflip⟩ :=
    List.exists_of_modify (fun b => b ^^^ (1#8 <<< (k % 8))) (Nat.div_lt_of_lt_mul hk)
  rw [Claims.flipBit, hflip, Bool.eq_false_iff]
  intro hpass
  have hsame : crc16 (before ++ (b ^^^ (1#8 <<< (k % 8))) :: after) = crc16 (before ++ b :: after) := by
    rw [crc16_eq_zero_of_crcMatches hpass, ← hframe, crc16_crcAppend]
  exact xor_bit_ne b k (eq_of_crc16_eq hsame)

end Sys2Proof.Proofs
end

section
/-! The CRC commands CRCINIT and CRCBYTE (40_crc16.md R105, R106): what each answers, and how `CRCACC` follows the
commands accepted along a run (R107, R108). -/

namespace Sys2Proof.Machine

/-- A command's answer with status `OK`, as a whole state. -/
theorem respond_ok (d : Half) (s : State) : s.respond .ok d = Claims.answered (mkWord 0x00 0x00 d) s := rfl

/-- What an instruction leaves in the accumulator (40_crc16.md R107). -/
def crcAfter (c : Half) : Instr → Half
  | .crcinit => Config.crcInit
  | .crcbyte a => crcStep c a
  | _ => c

/-! ### The CRC commands of a history -/

@[simp] theorem crcCommands_append (cap : Nat) (h ev : List Event) :
    Claims.crcCommands cap (h ++ ev) = Claims.crcCommands cap h ++ Claims.crcCommands cap ev := List.filterMap_append

/-- Arriving bytes are no commands. -/
theorem crcCommands_arrivals (cap : Nat) (bytes : List Byte) : Claims.crcCommands cap (bytes.map .arrive) = [] := by
  simp [Claims.crcCommands]

/-- An illegal word is no CRC command. -/
theorem crcCommands_illegal {cap : Nat} {w : Word} {e : Reject} (h : decodeCommand cap w = .error e) :
    Claims.crcCommands cap [.cmd w] = [] := by
  simp [Claims.crcCommands, h]

/-- A word accepted takes the accumulator to where its command leaves it, a CRC command or another. -/
theorem foldl_crcAfter_accepted {cap : Nat} {w : Word} {i : Instr} (h : decodeCommand cap w = .ok i) (c : Half) :
    (Claims.crcCommands cap [.cmd w]).foldl crcAfter c = crcAfter c i := by
  cases i <;> simp [Claims.crcCommands, h, crcAfter]

/-- CRCBYTEs in a row feed their bytes in order. -/
theorem foldl_crcAfter_crcbyte (c : Half) (bytes : List Byte) :
    (bytes.map Instr.crcbyte).foldl crcAfter c = crcFrom c bytes := by
  rw [List.foldl_map]
  rfl

/-! ### Steps -/

/-- From `s` to `t` no command was accepted and the parameters were kept; `CRCACC` is now `c`. -/
structure NoneAccepted (c : Half) (s t : State) : Prop where
  history : ∃ ev, t.history = s.history ++ ev ∧ ∀ cap, Claims.crcCommands cap ev = []
  params : t.params = s.params
  crcacc : t.crcacc = c

/-- An answer accepts nothing. -/
theorem NoneAccepted.of_respond {s t : State} {c : Half} {w : Word} (history : t.history = s.history ++ [.resp w])
    (params : t.params = s.params) (crcacc : t.crcacc = c) : NoneAccepted c s t :=
  ⟨⟨_, history, fun _ => rfl⟩, params, crcacc⟩

/-- What records nothing accepts nothing. -/
theorem NoneAccepted.of_history_eq {s t : State} {c : Half} (history : t.history = s.history)
    (params : t.params = s.params) (crcacc : t.crcacc = c) : NoneAccepted c s t :=
  ⟨⟨[], by rw [history, List.append_nil], fun _ => rfl⟩, params, crcacc⟩

theorem noneAccepted_arrive (s : State) (bytes : List Byte) : NoneAccepted s.crcacc s (s.arrive bytes) :=
  ⟨⟨_, rfl, fun cap => crcCommands_arrivals cap bytes⟩, rfl, rfl⟩

/-- A frame on the line is no CRC command. -/
theorem crcAfter_of_frame {i : Instr} {bytes : List Byte} (h : encode i = .frame bytes) (c : Half) :
    crcAfter c i = c := by
  cases i
  case crcinit | crcbyte => cases h
  all_goals rfl

/-- An instruction's meaning comes after its acceptance; the CRC commands alone write `CRCACC`. -/
theorem noneAccepted_exec {i : Instr} {s t : State} (h : exec i s = .next t) :
    NoneAccepted (crcAfter s.crcacc i) s t := by
  rcases exec_inv h with ⟨rfl, rfl⟩ | ⟨r, imm, rfl, -, rfl⟩ | ⟨r, imm, d, rfl, -, rfl⟩ | ⟨a, imm, rfl | rfl, rfl⟩ |
    ⟨a, imm, rfl, rfl⟩ | ⟨rfl, rfl⟩ | ⟨a, rfl, rfl⟩ | ⟨a, imm, d, rfl, rfl⟩ | ⟨rfl, -, rfl⟩ | ⟨rfl, -, rfl⟩ |
    ⟨v, rfl, -, rfl⟩ | ⟨d, rfl, -, rfl⟩ | ⟨a, imm, rfl, rfl⟩ | ⟨bytes, hb, rfl⟩
  · exact .of_respond rfl rfl rfl
  · obtain ⟨ts, tr, rc, rd, e⟩ := setData_frame r imm s
    rw [e]
    exact .of_respond rfl rfl rfl
  · exact .of_respond rfl rfl rfl
  · exact .of_respond rfl rfl rfl
  · exact .of_respond rfl rfl rfl
  · exact .of_respond rfl rfl rfl
  · exact .of_respond rfl rfl rfl
  · exact .of_respond rfl rfl rfl
  · exact .of_respond rfl rfl rfl
  · exact .of_history_eq rfl rfl rfl
  · exact .of_respond rfl rfl rfl
  · exact .of_respond rfl rfl rfl
  · exact .of_respond rfl rfl rfl
  · exact .of_history_eq rfl rfl rfl
  · rw [crcAfter_of_frame hb]
    exact noneAccepted_arrive s bytes

theorem noneAccepted_stepRxRead (s : State) : NoneAccepted s.crcacc s (stepRxRead s) := by
  rcases stepRxRead_cases s with ⟨-, e⟩ | ⟨-, e⟩ <;> rw [e]
  · exact ⟨⟨[.rxRead s.lineRx, .resp _], List.append_assoc _ _ _, fun _ => rfl⟩, rfl, rfl⟩
  · exact ⟨⟨[.rxRead s.lineRx], rfl, fun _ => rfl⟩, rfl, rfl⟩

theorem noneAccepted_stepEval (s : State) : NoneAccepted s.crcacc s (stepEval s) := by
  rcases stepEval_cases s with ⟨v, -, e⟩ | ⟨r, -, -, e⟩ | ⟨r, -, -, e⟩ <;> rw [e]
  · exact .of_respond rfl rfl rfl
  · exact .of_respond rfl rfl rfl
  · exact .of_history_eq rfl rfl rfl

/-- No transition of the sequencer accepts a command or writes `CRCACC`. -/
theorem noneAccepted_sequencerStep (s : State) : NoneAccepted s.crcacc s (sequencerStep s) := by
  rcases sequencerStep_cases s with ⟨-, e⟩ | ⟨-, e⟩ | ⟨-, e⟩ | ⟨-, -, e⟩ | ⟨-, -, e⟩ | ⟨-, e⟩ | ⟨-, -, e⟩ |
    ⟨-, -, e⟩ <;> rw [e]
  · exact .of_history_eq rfl rfl rfl
  · exact ⟨⟨[.dir true], rfl, fun _ => rfl⟩, rfl, rfl⟩
  · exact ⟨⟨[.tx s.request], rfl, fun _ => rfl⟩, rfl, rfl⟩
  · exact ⟨⟨[.dir false], rfl, fun _ => rfl⟩, rfl, rfl⟩
  · exact noneAccepted_stepRxRead s
  · exact noneAccepted_stepEval s
  · exact .of_history_eq rfl rfl rfl
  · exact .of_history_eq rfl rfl rfl

/-- From `s` to `t` the events `ev` were recorded; without a `Reset` among them, the CRC commands among them took
`CRCACC` to where it is (40_crc16.md R107, R108). -/
structure CrcTrace (s t : State) (ev : List Event) : Prop where
  history : t.history = s.history ++ ev
  params : t.params = s.params
  crcacc : .reset ∉ ev → t.crcacc = (Claims.crcCommands s.params.rxcap ev).foldl crcAfter s.crcacc

theorem CrcTrace.refl (s : State) : CrcTrace s s [] := ⟨(List.append_nil _).symm, rfl, fun _ => rfl⟩

/-- Traces in a row. -/
theorem CrcTrace.trans {s t u : State} {ev ev' : List Event} (h : CrcTrace s t ev) (h' : CrcTrace t u ev') :
    CrcTrace s u (ev ++ ev') where
  history := by rw [h'.history, h.history, List.append_assoc]
  params := h'.params.trans h.params
  crcacc hr := by
    rw [List.mem_append, not_or] at hr
    obtain ⟨hr, hr'⟩ := hr
    rw [h'.crcacc hr', h.crcacc hr, h.params, crcCommands_append, List.foldl_append]

/-- Where no command is accepted, `CRCACC` is kept. -/
theorem NoneAccepted.exists_crcTrace {s t : State} (h : NoneAccepted s.startTurn.crcacc s.startTurn t) :
    ∃ ev, CrcTrace s t ev := by
  obtain ⟨⟨ev, hev, hnone⟩, hparams, hacc⟩ := h
  exact ⟨ev, hev, hparams, fun _ => by rw [hnone]; exact hacc⟩

/-- What follows the acceptance of a word: its command alone may write `CRCACC`. -/
theorem NoneAccepted.exists_crcTrace_of_accept {s t : State} {w : Word} {c : Half}
    (h : NoneAccepted c (s.startTurn.accept w) t)
    (hc : (Claims.crcCommands s.params.rxcap [.cmd w]).foldl crcAfter s.crcacc = c) : ∃ ev, CrcTrace s t ev := by
  obtain ⟨⟨ev, hev, hnone⟩, hparams, hacc⟩ := h
  refine ⟨.cmd w :: ev, hev.trans (List.append_assoc _ _ _), hparams, fun _ => ?_⟩
  rw [← List.singleton_append, crcCommands_append, hnone, List.append_nil, hc, hacc]

/-- Every step has its trace. -/
theorem exists_crcTrace_of_step {s t : State} (h : step s = .next t) : ∃ ev, CrcTrace s t ev := by
  rcases step_inv h with ⟨-, rfl⟩ | ⟨-, rfl⟩ | ⟨bytes, -, rfl⟩ | ⟨-, -, -, rfl⟩ | ⟨w, -, e, -, -, -, hd, rfl⟩ |
    ⟨w, -, i, -, -, -, hd, hx, -⟩ | ⟨-, -, rfl⟩
  · exact ⟨[.tick], rfl, rfl, fun _ => rfl⟩
  · exact ⟨[.reset], rfl, rfl, fun hr => absurd List.mem_cons_self hr⟩
  · exact (noneAccepted_arrive s.startTurn bytes).exists_crcTrace
  · exact ⟨[], (List.append_nil _).symm, rfl, fun _ => rfl⟩
  · have answered : NoneAccepted s.crcacc (s.startTurn.accept w) (answerIllegal (s.startTurn.accept w)) :=
      .of_respond rfl rfl rfl
    exact answered.exists_crcTrace_of_accept (by rw [crcCommands_illegal hd]; rfl)
  · exact (noneAccepted_exec hx).exists_crcTrace_of_accept (foldl_crcAfter_accepted hd s.crcacc)
  · exact (noneAccepted_sequencerStep s.startTurn).exists_crcTrace

/-- Every run has its trace. -/
theorem exists_crcTrace_of_run {n : Nat} {s t : State} (h : run n s = .next t) : ∃ ev, CrcTrace s t ev := by
  refine run_keeps (P := fun u => ∃ ev, CrcTrace s u ev) (fun u v hu hst => ?_) ⟨[], .refl s⟩ h
  obtain ⟨ev, htrace⟩ := hu
  obtain ⟨ev', htrace'⟩ := exists_crcTrace_of_step hst
  exact ⟨ev ++ ev', htrace.trans htrace'⟩

end Sys2Proof.Machine

namespace Sys2Proof.Proofs

open Sys2Proof.Machine

/-- Settles O12: the row's word, its meaning, and the fields that format N asks to be zero. -/
theorem crcinitStarts : Obligations.CrcinitStarts :=
  ⟨fun cap => decode_of_encode_eq cap (i := .crcinit) (p := .word 0x10000000) rfl rfl,
    fun s => congrArg Host.Outcome.next (respond_ok Config.crcInit { s with crcacc := Config.crcInit }),
    fun _ _ hop h => exists_error_of_format_n (by simp [hop]) h⟩

/-- Settles O13: the row's word, its meaning, the field that format B asks to be zero, and the rule's corner cases. -/
theorem crcbyteFeeds : Obligations.CrcbyteFeeds :=
  ⟨fun cap a => decode_of_encode_eq cap (i := .crcbyte a) (p := .word (mkWord 0x11 a 0x0000)) rfl rfl,
    fun s a => congrArg Host.Outcome.next (respond_ok (crcStep s.crcacc a) { s with crcacc := crcStep s.crcacc a }),
    fun _ _ hop h => exists_error_of_format_b hop h, by decide⟩

/-- Settles O46: of the effects a step can have on the registers, the CRC commands' alone write `CRCACC`. -/
theorem crcaccOnlyByCrcCommands : Obligations.CrcaccOnlyByCrcCommands := by
  intro s t hst hne
  by_cases hr : s.schedule.head? = some .reset
  · exact .inl hr
  · rcases (registerEffect_step hst hr).crcacc_of_ne hne with ⟨hran, -⟩ | ⟨a, hran, -⟩
    · exact .inr (.inl hran)
    · exact .inr (.inr ⟨a, hran⟩)

/-- Settles O17: the run's trace, of which CRCINIT starts the accumulator and the CRCBYTEs feed it. -/
theorem accumulatorComputesCrc : Obligations.AccumulatorComputesCrc := by
  intro n s t ev bytes hrun hhistory hreset hcommands
  obtain ⟨ev', htrace⟩ := exists_crcTrace_of_run hrun
  obtain rfl : ev' = ev := List.append_cancel_left (htrace.history.symm.trans hhistory)
  calc t.crcacc
    _ = (Instr.crcinit :: bytes.map .crcbyte).foldl crcAfter s.crcacc := by rw [htrace.crcacc hreset, hcommands]
    _ = (bytes.map Instr.crcbyte).foldl crcAfter Config.crcInit := rfl
    _ = crc16 bytes := foldl_crcAfter_crcbyte Config.crcInit bytes

end Sys2Proof.Proofs
end

section
/-! What the commands that store no buffer byte leave unchanged (40_crc16.md R105, R106, 41_frame_codec.md R123,
42_transceiver.md R135, 44_system_commands.md R175 to R178), with the exceptions of each command said at the command. -/

namespace Sys2Proof

/-- The commands whose accepting step stores no buffer byte and receives none. -/
def Instr.storesNoByte : Instr → Bool
  | .nop | .set _ _ | .get _ _ | .crcinit | .crcbyte _ | .xact | .dec => true
  | .enc _ _ | .read _ _ | .req03 _ _ | .rsp03 _ _ _ => false

end Sys2Proof

namespace Sys2Proof.Machine

/-- `i` takes `s` to `t` with the frame of a command that stores no buffer byte. A field holds by `rfl` unless the
command at hand is its exception. -/
structure RegisterFrame (i : Instr) (s t : State) : Prop where
  buffers : SameBuffers s t := by constructor <;> rfl
  attempts : t.attempts = s.attempts := by rfl
  timer : t.timer = s.timer := by rfl
  retryLeft : t.retryLeft = s.retryLeft := by rfl
  de : t.de = s.de := by rfl
  lineTx : t.lineTx = s.lineTx := by rfl
  lineRx : t.lineRx = s.lineRx := by rfl
  hostCmds : t.hostCmds = s.hostCmds := by rfl
  schedule : t.schedule = s.schedule := by rfl
  config : (∀ a imm, i ≠ .set a imm) → t.tSettle = s.tSettle ∧ t.tResp = s.tResp ∧ t.retryCount = s.retryCount ∧
    t.retryDelay = s.retryDelay := by exact fun _ => ⟨rfl, rfl, rfl, rfl⟩
  crcacc : i ≠ .crcinit → (∀ a, i ≠ .crcbyte a) → t.crcacc = s.crcacc := by exact fun _ _ => rfl
  value_ok : i ≠ .dec → t.value = s.value ∧ t.ok = s.ok := by exact fun _ => ⟨rfl, rfl⟩
  err : i ≠ .dec → i ≠ .xact → t.err = s.err := by exact fun _ _ => rfl
  cmdop : i ≠ .xact → t.cmdop = s.cmdop := by exact fun _ => rfl

/-- Each of these commands has the frame, but for the registers named in its case. -/
theorem registerFrame_exec {i : Instr} {s t : State} (hi : i.storesNoByte = true) (h : exec i s = .next t) :
    RegisterFrame i s t := by
  rcases exec_inv h with ⟨rfl, rfl⟩ | ⟨r, imm, rfl, -, rfl⟩ | ⟨r, imm, d, rfl, -, rfl⟩ | ⟨a, imm, -, rfl⟩ |
    ⟨a, imm, -, rfl⟩ | ⟨rfl, rfl⟩ | ⟨a, rfl, rfl⟩ | ⟨a, imm, d, rfl, -⟩ | ⟨rfl, -, rfl⟩ | ⟨rfl, -, rfl⟩ |
    ⟨v, rfl, -, rfl⟩ | ⟨d, rfl, -, rfl⟩ | ⟨a, imm, rfl, -⟩ | ⟨bytes, hb, rfl⟩
  · exact { }
  · obtain ⟨ts, tr, rc, rd, e⟩ := setData_frame r imm s
    rw [e]
    exact { config := fun hset => absurd rfl (hset r.index imm) }
  · exact { }
  · exact { }
  · exact { }
  · exact { crcacc := fun hinit => absurd rfl hinit }
  · exact { crcacc := fun _ hbyte => absurd rfl (hbyte a) }
  · cases hi
  · exact { cmdop := fun hxact => absurd rfl hxact }
  · exact { err := fun _ hxact => absurd rfl hxact }
  · exact { value_ok := fun hdec => absurd rfl hdec, err := fun hdec => absurd rfl hdec }
  · exact { value_ok := fun hdec => absurd rfl hdec, err := fun hdec => absurd rfl hdec }
  · cases hi
  · cases i
    case req03 | rsp03 => cases hi
    all_goals cases hb

end Sys2Proof.Machine

namespace Sys2Proof.Proofs

open Sys2Proof.Machine

/-- Settles O51: each of the seven commands has the frame. -/
theorem registerCommandsFrame : Obligations.RegisterCommandsFrame := by
  intro i s t hi h
  have hi : i.storesNoByte = true := by
    rcases hi with rfl | ⟨a, imm, rfl⟩ | ⟨a, imm, rfl⟩ | rfl | ⟨a, rfl⟩ | rfl | rfl <;> rfl
  have hf := registerFrame_exec hi h
  exact ⟨fun a => ⟨by rw [hf.buffers.txbuf], by rw [hf.buffers.rxbuf]⟩, hf.buffers.slaveId, hf.buffers.regAddr,
    hf.buffers.rxlen, hf.attempts, hf.buffers.rxovf, hf.buffers.txvalid, hf.timer, hf.retryLeft, hf.de, hf.lineTx,
    hf.lineRx, hf.buffers.params, hf.hostCmds, hf.schedule, hf.config, hf.crcacc, hf.value_ok, hf.err, hf.cmdop⟩

end Sys2Proof.Proofs
end

section
/-! The frame codec (41_frame_codec.md): what the decoder answers for each sequence of bytes, and what ENC, DEC and the
accepting step of READ do to the state. -/

namespace Sys2Proof.Machine

/-! ### The decoder -/

/-- The last two bytes of a frame. -/
theorem drop_length_sub_two {r : List Byte} (h : 2 ≤ r.length) :
    r.drop (r.length - 2) = [r.getD (r.length - 2) 0, r.getD (r.length - 1) 0] := by
  have hnext : r.length - 2 + 1 = r.length - 1 := by omega
  have hend : r.length - 1 + 1 = r.length := by omega
  rw [List.drop_eq_getElem_cons (by omega), hnext, List.drop_eq_getElem_cons (by omega), hend, List.drop_length,
    List.getD_eq_getElem _ _ (by omega), List.getD_eq_getElem _ _ (by omega)]

/-- The check of 41_frame_codec.md R121 step 2, byte by byte. -/
theorem crcMatches_iff {r : List Byte} (h : 2 ≤ r.length) :
    crcMatches r = true ↔ r.getD (r.length - 2) 0 = lo (crc16 (r.take (r.length - 2))) ∧
      r.getD (r.length - 1) 0 = hi (crc16 (r.take (r.length - 2))) := by
  simp only [crcMatches, beq_iff_eq, drop_length_sub_two h, crcBytes, List.cons.injEq, and_true]

/-- What the decoder can answer, and when: the first check that fails decides (41_frame_codec.md R121). -/
theorem decodeResponse_cases (r : List Byte) :
    (r.length < 5 ∧ decodeResponse r = .error .tooShort) ∨
    (5 ≤ r.length ∧ ¬ crcMatches r = true ∧ decodeResponse r = .error .badCrc) ∨
    (5 ≤ r.length ∧ crcMatches r = true ∧ (r.length ≠ 7 ∨ r.getD 2 0 ≠ 0x02) ∧
      decodeResponse r = .error .unexpectedLength) ∨
    (r.length = 7 ∧ crcMatches r = true ∧ r.getD 2 0 = 0x02 ∧
      decodeResponse r = .ok (join (r.getD 3 0) (r.getD 4 0))) := by
  generalize hd : decodeResponse r = d
  unfold decodeResponse at hd
  split at hd
  · next hshort => exact .inl ⟨hshort, hd.symm⟩
  · next hshort =>
    have hlen : 5 ≤ r.length := not_lt.1 hshort
    split at hd
    · next hcrc => exact .inr (.inl ⟨hlen, by simpa using hcrc, hd.symm⟩)
    · next hcrc =>
      have hcrc : crcMatches r = true := by simpa using hcrc
      split at hd
      · next hdata =>
        have hdata : r.length - 5 ≠ 2 := hdata
        exact .inr (.inr (.inl ⟨hlen, hcrc, .inl (by omega), hd.symm⟩))
      · next hdata =>
        have hdata : r.length - 5 = 2 := not_not.1 hdata
        split at hd
        · next hcount => exact .inr (.inr (.inl ⟨hlen, hcrc, .inr hcount, hd.symm⟩))
        · next hcount => exact .inr (.inr (.inr ⟨by omega, hcrc, not_not.1 hcount, hd.symm⟩))

/-! Each answer, and exactly when the decoder gives it. -/

theorem decodeResponse_eq_tooShort_iff {r : List Byte} : decodeResponse r = .error .tooShort ↔ r.length < 5 := by
  rcases decodeResponse_cases r with ⟨hlen, e⟩ | ⟨hlen, -, e⟩ | ⟨hlen, -, -, e⟩ | ⟨hlen, -, -, e⟩ <;> simp [e, hlen]

theorem decodeResponse_eq_badCrc_iff {r : List Byte} :
    decodeResponse r = .error .badCrc ↔ 5 ≤ r.length ∧ ¬ crcMatches r = true := by
  rcases decodeResponse_cases r with ⟨hlen, e⟩ | ⟨hlen, hcrc, e⟩ | ⟨-, hcrc, -, e⟩ | ⟨-, hcrc, -, e⟩
  · simp [e, hlen]
  · simp [e, hlen, hcrc]
  · simp [e, hcrc]
  · simp [e, hcrc]

theorem decodeResponse_eq_unexpectedLength_iff {r : List Byte} :
    decodeResponse r = .error .unexpectedLength ↔
      5 ≤ r.length ∧ crcMatches r = true ∧ (r.length ≠ 7 ∨ r.getD 2 0 ≠ 0x02) := by
  rcases decodeResponse_cases r with ⟨hlen, e⟩ | ⟨-, hcrc, e⟩ | ⟨hlen, hcrc, hdata, e⟩ | ⟨hlen, -, hcount, e⟩
  · simp [e, hlen]
  · simp [e, hcrc]
  · exact iff_of_true e ⟨hlen, hcrc, hdata⟩
  · exact iff_of_false (by simp [e]) (by tauto)

theorem decodeResponse_eq_ok_iff {r : List Byte} {v : Half} :
    decodeResponse r = .ok v ↔
      r.length = 7 ∧ crcMatches r = true ∧ r.getD 2 0 = 0x02 ∧ v = join (r.getD 3 0) (r.getD 4 0) := by
  rcases decodeResponse_cases r with ⟨hlen, e⟩ | ⟨-, hcrc, e⟩ | ⟨-, -, hdata, e⟩ | ⟨hlen, hcrc, hcount, e⟩
  · exact iff_of_false (by simp [e]) (by omega)
  · simp [e, hcrc]
  · exact iff_of_false (by simp [e]) (by tauto)
  · rw [e, Except.ok.injEq, eq_comm]
    exact ⟨fun hv => ⟨hlen, hcrc, hcount, hv⟩, fun ⟨_, _, _, hv⟩ => hv⟩

/-! ### The commands -/

/-- ENC stores the request and answers its CRC, the last two bytes of it (41_frame_codec.md R118). -/
theorem exec_enc (sid : Byte) (addr : Half) (s : State) :
    exec (.enc sid addr) s = .next ((s.withRequest sid addr).respond .ok (crc16 (requestHead sid addr))) :=
  congrArg (fun d => Host.Outcome.next ((s.withRequest sid addr).respond .ok d)) (join_hi_lo _)

/-- READ stores the request and starts the first attempt (43_register_reader.md R156). -/
theorem exec_read (sid : Byte) (addr : Half) (s : State) :
    exec (.read sid addr) s = .next { (s.withRequest sid addr).clearOk with
      attempts := 0, retryLeft := s.retryCount, cmdop := .read, seq := .txen } := rfl

/-- The state a successful DEC leaves in `IDLE` (41_frame_codec.md R123). -/
theorem exec_dec_of_ok_of_idle {s : State} (hs : s.seq = .idle) {v : Half} (h : decodeResponse s.reception = .ok v) :
    exec .dec s = .next (Claims.answered (mkWord 0 0 v) { s with value := v, ok := true, err := 0x00 }) := by
  rw [exec_dec_of_ok h]
  cases s
  cases hs
  rfl

/-- The state a DEC that finds an error leaves in `IDLE` (41_frame_codec.md R123). -/
theorem exec_dec_of_error_of_idle {s : State} (hs : s.seq = .idle) {d : DecodeError}
    (h : decodeResponse s.reception = .error d) :
    exec .dec s = .next (Claims.answered (mkWord d.code 0 0) { s with ok := false, err := d.code }) := by
  rw [exec_dec_of_error h]
  cases s
  cases hs
  rfl

end Sys2Proof.Machine

namespace Sys2Proof.Proofs

open Sys2Proof.Machine

/-- Settles O19: a request is its six bytes with their CRC appended. -/
theorem requestShape : Obligations.RequestShape := fun _ _ => ⟨rfl, rfl, crcMatches_crcAppend _, rfl⟩

/-- Settles O21: the decoder's four answers, with its CRC check read byte by byte. -/
theorem decodeResultByLength : Obligations.DecodeResultByLength := by
  intro r n c good
  have hgood (h : 5 ≤ n) : crcMatches r = true ↔ good := crcMatches_iff (by omega)
  refine ⟨decodeResponse_eq_tooShort_iff, decodeResponse_eq_badCrc_iff.trans ?_,
    decodeResponse_eq_unexpectedLength_iff.trans ?_, fun v => decodeResponse_eq_ok_iff.trans ?_⟩
  · exact and_congr_right fun h => not_congr (hgood h)
  · exact and_congr_right fun h => and_congr_left' (hgood h)
  · exact and_congr_right fun h => and_congr_left' (hgood (by omega))

/-- Settles O22: the checks of the decoder read neither the slave nor the function code. -/
theorem decodeIgnoresSender : Obligations.DecodeIgnoresSender :=
  ⟨fun _ _ v => decodeResponse_eq_ok_iff.2 ⟨rfl, crcMatches_crcAppend _, rfl, (join_hi_lo v).symm⟩,
    fun _ _ _ => decodeResponse_eq_unexpectedLength_iff.2 ⟨le_rfl, crcMatches_crcAppend _, .inl (by simp)⟩⟩

/-- Settles O52: both store the request from index 0 and write, beside it, no register the frame names. -/
theorem requestCommandsFrame : Obligations.RequestCommandsFrame := by
  intro i sid addr s t hi h
  have htx : ∀ a, 0 + (encodeRequest sid addr).length ≤ a →
      (s.withRequest sid addr).txbuf.find a = s.txbuf.find a :=
    fun a ha => Memory.find_writeBytes_outside _ _ _ _ (.inr ha)
  rcases hi with rfl | rfl
  · rw [exec_enc] at h
    cases h
    exact ⟨htx, fun _ => rfl, rfl, rfl, rfl, rfl, rfl, rfl, rfl, rfl, rfl, rfl, rfl, rfl, rfl, rfl, rfl, rfl,
      fun _ => ⟨rfl, rfl, rfl, rfl, rfl⟩⟩
  · rw [exec_read] at h
    cases h
    exact ⟨htx, fun _ => rfl, rfl, rfl, rfl, rfl, rfl, rfl, rfl, rfl, rfl, rfl, rfl, rfl, rfl, rfl, rfl, rfl, nofun⟩

/-- Settles O18: the request's eight bytes from index 0, and its CRC as the answer. -/
theorem encBuildsRequest : Obligations.EncBuildsRequest := by
  refine ⟨fun cap sid addr => decode_of_encode_eq cap (i := .enc sid addr) (p := .word (mkWord 0x20 sid addr)) rfl rfl,
    fun s sid addr => ⟨crc16 (requestHead sid addr), (s.withRequest sid addr).txbuf, rfl, fun k => ?_, ?_⟩⟩
  · have hfind := Memory.find_writeBytes (encodeRequest sid addr) s.txbuf 0 k
    simp only [Nat.zero_le, true_and, length_encodeRequest, Nat.zero_add, Nat.sub_zero] at hfind
    exact hfind
  · rw [exec_enc, respond_ok]
    rfl

/-- Settles O20: DEC reports each of the decoder's answers; no byte received is `TooShort`. -/
theorem decReportsDecode : Obligations.DecReportsDecode := by
  refine ⟨fun cap => decode_of_encode_eq cap (i := .dec) (p := .word 0x22000000) rfl rfl,
    fun s hs => ⟨fun hlen => ?_, fun _ => exec_dec_of_ok_of_idle hs, exec_dec_of_error_of_idle hs,
      exec_dec_of_error_of_idle hs, exec_dec_of_error_of_idle hs⟩⟩
  have hempty : s.reception.length = 0 := by rw [length_reception, hlen]; rfl
  exact decodeResponse_eq_tooShort_iff.2 (by omega)

end Sys2Proof.Proofs
end

section
/-! The transceiver (42_transceiver.md): the accepting step of XACT and the four steps of a transaction, said once each;
the run of a whole XACT; and that the line belongs to the sequencer (R143). -/

namespace Sys2Proof.Machine

/-! ### The steps of a transaction -/

/-- XACT with a request encoded starts the transaction. -/
theorem exec_xact_of_txvalid {s : State} (hv : s.txvalid = true) :
    exec .xact s = .next { s with cmdop := .xact, seq := .txen } := by
  simp [exec, execXact, hv]

/-- XACT with no request encoded is an error entry. -/
theorem exec_xact_of_not_txvalid {s : State} (hv : s.txvalid = false) : exec .xact s = .next (s.raise .noFrame) := by
  simp [exec, execXact, hv]

/-- The error entry of an XACT in `IDLE`: `ERR` and the answer, and nothing else. -/
theorem raise_noFrame_of_idle {s : State} (hs : s.seq = .idle) :
    s.raise .noFrame = Claims.answered 0xE1000000 { s with err := 0xE1 } := by
  cases s
  cases hs
  rfl

/-- The word of XACT, on every block. -/
theorem decodeCommand_xact (cap : Nat) : decodeCommand cap 0x21000000 = .ok .xact :=
  decode_of_encode_eq cap (i := .xact) (p := .word 0x21000000) rfl rfl

/-- The block's turn in `TXEN` is the step `Dir(1)`. -/
theorem step_dirOn {s : State} (hturn : s.turn = .block) (hs : s.seq = .txen) :
    step s = .next (stepDirOn s.startTurn) := by
  rw [step_busy hturn (by simp [hs])]
  simp [sequencerStep, hs]

/-- The block's turn in `WRITE` is the step `Tx`. -/
theorem step_tx {s : State} (hturn : s.turn = .block) (hs : s.seq = .write) : step s = .next (stepTx s.startTurn) := by
  rw [step_busy hturn (by simp [hs])]
  simp [sequencerStep, hs]

/-- The block's turn when the settle wait is over is the step `Dir(0)`. -/
theorem step_dirOff {s : State} (hturn : s.turn = .block) (hs : s.seq = .settle) (ht : s.timer = 0) :
    step s = .next (stepDirOff s.startTurn) := by
  rw [step_busy hturn (by simp [hs])]
  simp [sequencerStep, hs, ht]

/-- Step `Dir(1)` of an XACT counts no attempt. -/
theorem stepDirOn_of_xact {s : State} (hc : s.cmdop = .xact) :
    stepDirOn s = { s with seq := .write }.setDirection true := by
  simp [stepDirOn, hc]

/-- Step `Dir(1)` of a READ counts the attempt. -/
theorem stepDirOn_of_read {s : State} (hc : s.cmdop = .read) :
    stepDirOn s = { s with attempts := s.attempts + 1, seq := .write }.setDirection true := by
  simp [stepDirOn, hc]

/-- Eight bytes that `TXBUF` holds are the request: no free value is read. -/
theorem request_eq_of_find {s : State} {f : List Byte} (hlen : f.length = 8)
    (hfind : ∀ k, k < 8 → s.txbuf.find k = f[k]?) : s.request = f := by
  apply List.ext_getElem
  · rw [State.request, Memory.length_readBytes, hlen]
  · intro k _ hk
    simp only [State.request, Memory.readBytes, List.getElem_map, List.getElem_range, Nat.zero_add]
    apply Memory.readByte_of_find
    rw [hfind k (by omega), List.getElem?_eq_getElem hk]

/-- `RXBUF` holds, below `RXLEN`, the bytes in the order in which they arrived (20_memory.md R60). -/
theorem find_receive_rxbuf {s : State} {k : Nat} (hk : k < s.receive.rxlen.toNat) :
    s.receive.rxbuf.find k = s.lineRx[k]? := by
  rw [toNat_receive_rxlen] at hk
  rw [State.receive_rxbuf, Memory.find_writeBytes, if_pos (by simpa using hk), Nat.sub_zero,
    List.getElem?_take_of_lt hk]

/-- Step `RxRead` ends an XACT with the number of bytes kept. -/
theorem stepRxRead_of_xact {s : State} (hc : s.cmdop = .xact) :
    stepRxRead s = s.receive.complete s.receive.rxlen := by
  simp [stepRxRead, hc]

/-- Step `RxRead` of a READ leaves the judging to `Eval`. -/
theorem stepRxRead_of_read {s : State} (hc : s.cmdop = .read) : stepRxRead s = { s.receive with seq := .eval } := by
  simp [stepRxRead, hc]

/-- The events of a `RxRead` that answers, in order. -/
theorem history_receive_complete (s : State) (d : Half) : (s.receive.complete d).history =
    s.history ++ [.rxRead s.lineRx, .resp (responseWord .ok d)] :=
  List.append_assoc _ _ _

/-! ### The line belongs to the sequencer -/

/-- What the block and LINE share: the direction pin and the transport's two queues. -/
structure Line where
  de : Bool
  lineTx : List (List Byte)
  lineRx : List Byte

/-- The line of a state. -/
def State.line (s : State) : Line where
  de := s.de
  lineTx := s.lineTx
  lineRx := s.lineRx

/-- What a step from `s` to `t` does to the line, with its occasion (42_transceiver.md R143). -/
inductive LineEffect (s t : State) : Prop where
  | keep (line : t.line = s.line)
  | reset (turn : s.turn = .reset) (line : t.line = { s.line with de := false })
  | arrive (bytes : List Byte) (turn : s.turn = .line bytes)
      (line : t.line = { s.line with lineRx := s.lineRx ++ bytes })
  | enable (turn : s.turn = .block) (phase : s.seq = .txen) (line : t.line = { s.line with de := true })
  | send (turn : s.turn = .block) (phase : s.seq = .write)
      (line : t.line = { s.line with lineTx := s.lineTx ++ [s.request] })
  | release (turn : s.turn = .block) (phase : s.seq = .settle) (elapsed : s.timer = 0)
      (line : t.line = { s.line with de := false })
  | take (turn : s.turn = .block) (phase : s.seq = .rxwait) (elapsed : s.timer = 0)
      (line : t.line = { s.line with lineRx := [] })

/-- No command touches the line in its accepting step. -/
theorem line_exec {i : Instr} {s t : State} (hf : ∀ bytes, encode i ≠ .frame bytes) (h : exec i s = .next t) :
    t.line = s.line := by
  cases hi : i.storesNoByte with
  | true =>
    have frame := registerFrame_exec hi h
    simp [State.line, frame.de, frame.lineTx, frame.lineRx]
  | false =>
    cases i
    case enc | read => cases h; rfl
    case req03 | rsp03 => exact absurd rfl (hf _)
    all_goals cases hi

/-- Step `RxRead` takes what is in `LINE_RX`, whichever command is running. -/
theorem line_stepRxRead (s : State) : (stepRxRead s).line = { s.line with lineRx := [] } := by
  rcases stepRxRead_cases s with ⟨-, e⟩ | ⟨-, e⟩ <;> rw [e] <;> rfl

/-- Step `Eval` does not touch the line. -/
theorem line_stepEval (s : State) : (stepEval s).line = s.line := by
  rcases stepEval_cases s with ⟨v, -, e⟩ | ⟨r, -, -, e⟩ | ⟨r, -, -, e⟩ <;> rw [e] <;> rfl

/-- Step `Retry` does not touch the line. -/
theorem line_stepRetry (s : State) : (stepRetry s).line = s.line := by simp [State.line, stepRetry]

/-- The effect of the sequencer's own transitions. -/
theorem lineEffect_sequencerStep {s : State} (hturn : s.turn = .block) :
    LineEffect s (sequencerStep s.startTurn) := by
  rcases sequencerStep_cases s.startTurn with ⟨-, e⟩ | ⟨hs, e⟩ | ⟨hs, e⟩ | ⟨hs, h0, e⟩ | ⟨hs, h0, e⟩ | ⟨-, e⟩ |
    ⟨-, -, e⟩ | ⟨-, -, e⟩ <;> rw [e]
  · exact .keep rfl
  · exact .enable hturn hs rfl
  · exact .send hturn hs rfl
  · exact .release hturn hs h0 rfl
  · exact .take hturn hs h0 (line_stepRxRead _)
  · exact .keep (line_stepEval _)
  · exact .keep (line_stepRetry _)
  · exact .keep rfl

/-- Every step has one of the effects listed. -/
theorem lineEffect_step {s t : State} (h : step s = .next t) : LineEffect s t := by
  rcases step_inv h with ⟨-, rfl⟩ | ⟨hturn, rfl⟩ | ⟨bytes, hturn, rfl⟩ | ⟨-, -, -, rfl⟩ |
    ⟨w, -, -, -, -, -, -, rfl⟩ | ⟨w, -, i, -, -, -, hd, hx, -⟩ | ⟨hturn, -, rfl⟩
  · exact .keep rfl
  · exact .reset hturn rfl
  · exact .arrive bytes hturn rfl
  · exact .keep rfl
  · exact .keep rfl
  · exact .keep (line_exec (s := s.startTurn.accept w) (not_frame_of_decodeCommand hd) hx)
  · exact lineEffect_sequencerStep hturn

namespace LineEffect

variable {s t : State}

theorem de_of_ne (h : LineEffect s t) (hne : t.de ≠ s.de) :
    s.turn = .reset ∨ (s.turn = .block ∧ s.seq = .txen ∧ t.de = true) ∨
      (s.turn = .block ∧ s.seq = .settle ∧ s.timer = 0 ∧ t.de = false) := by
  cases h
  case reset turn line => exact .inl turn
  case enable turn phase line => exact .inr (.inl ⟨turn, phase, congrArg Line.de line⟩)
  case release turn phase elapsed line => exact .inr (.inr ⟨turn, phase, elapsed, congrArg Line.de line⟩)
  all_goals
    rename_i line
    exact absurd (congrArg Line.de line) hne

theorem lineTx_of_ne (h : LineEffect s t) (hne : t.lineTx ≠ s.lineTx) :
    s.turn = .block ∧ s.seq = .write ∧ t.lineTx = s.lineTx ++ [s.request] := by
  cases h
  case send turn phase line => exact ⟨turn, phase, congrArg Line.lineTx line⟩
  all_goals
    rename_i line
    exact absurd (congrArg Line.lineTx line) hne

theorem lineRx_of_ne (h : LineEffect s t) (hne : t.lineRx ≠ s.lineRx) :
    (∃ bytes, s.turn = .line bytes ∧ t.lineRx = s.lineRx ++ bytes) ∨
      (s.turn = .block ∧ s.seq = .rxwait ∧ s.timer = 0 ∧ t.lineRx = []) := by
  cases h
  case arrive bytes turn line => exact .inl ⟨bytes, turn, congrArg Line.lineRx line⟩
  case take turn phase elapsed line => exact .inr ⟨turn, phase, elapsed, congrArg Line.lineRx line⟩
  all_goals
    rename_i line
    exact absurd (congrArg Line.lineRx line) hne

end LineEffect

end Sys2Proof.Machine

namespace Sys2Proof.Proofs

open Sys2Proof.Machine

/-- Settles O26: `RXLEN` and `RXBUF` are those of the reception, and `CMDOP` says where the step goes. -/
theorem rxReadTakesWhatArrived : Obligations.RxReadTakesWhatArrived := by
  intro s hturn hs ht
  have hstep := step_rxRead (turn_eq_block_iff.2 hturn) hs ht
  refine ⟨s.startTurn.receive.rxlen, s.startTurn.receive.rxbuf, toNat_receive_rxlen _, fun k => find_receive_rxbuf,
    fun hc => ?_, fun hc => ?_⟩
  · rw [hstep, stepRxRead_of_xact (s := s.startTurn) hc]
    rfl
  · rw [hstep, stepRxRead_of_read (s := s.startTurn) hc]
    rfl

/-- Settles O50: of the effects a step can have on the line, each part's own. -/
theorem lineOwnedBySequencer : Obligations.LineOwnedBySequencer := by
  intro s t hst
  have h := lineEffect_step hst
  refine ⟨fun hne => ?_, fun hne => ?_, fun hne => ?_⟩
  · exact (h.de_of_ne hne).imp (head?_of_turn · nofun)
      (.imp (.imp_left turn_eq_block_iff.1) (.imp_left turn_eq_block_iff.1))
  · exact (h.lineTx_of_ne hne).imp_left turn_eq_block_iff.1
  · exact (h.lineRx_of_ne hne).imp (fun ⟨bytes, turn, arrived⟩ => ⟨bytes, head?_of_turn turn nofun, arrived⟩)
      (.imp_left turn_eq_block_iff.1)

/-- Settles O24: XACT by whether a request was encoded. -/
theorem xactAccepted : Obligations.XactAccepted :=
  ⟨decodeCommand_xact, fun _ => exec_xact_of_txvalid,
    fun _ hv hs => by rw [exec_xact_of_not_txvalid hv, raise_noFrame_of_idle hs]⟩

/-- Settles O25: the three steps, of which `Tx` reads from `TXBUF` the bytes it holds. -/
theorem sendSteps : Obligations.SendSteps := by
  refine ⟨fun s hturn hs => ?_, fun s f hturn hs hlen hfind => ?_, fun s hturn hs ht => ?_⟩
  · rw [step_dirOn (turn_eq_block_iff.2 hturn) hs]
    cases hc : s.cmdop with
    | xact => rw [stepDirOn_of_xact (s := s.startTurn) hc]; rfl
    | read => rw [stepDirOn_of_read (s := s.startTurn) hc]; rfl
  · have hreq : s.startTurn.request = f := request_eq_of_find hlen hfind
    rw [step_tx (turn_eq_block_iff.2 hturn) hs, stepTx, hreq]
    rfl
  · rw [step_dirOff (turn_eq_block_iff.2 hturn) hs ht]
    rfl

/-- Settles O28: acceptance, then one transaction on the line, whose `RxRead` ends an XACT. -/
theorem xactRunsToCompletion : Obligations.XactRunsToCompletion := by
  intro s ws x rest hs hv hc hf hsch
  have hturn : s.turn = .block := by simp [State.turn, hsch]
  have haccept : step s = .next { s.startTurn.accept 0x21000000 with cmdop := .xact, seq := .txen } :=
    (step_accept hturn hs hc (decodeCommand_xact _)).trans (exec_xact_of_txvalid (s := s.startTurn.accept _) hv)
  have hsend := run_sending (s := { s.startTurn.accept 0x21000000 with cmdop := .xact, seq := .txen }) (x := x)
    (rest := rest) rfl (congrArg List.tail hsch) rfl hf
  rw [stepRxRead_of_xact rfl, ← run_succ haccept, Nat.add_comm] at hsend
  refine ⟨_, hsend, rfl, rfl, rfl, rfl, congrArg List.tail hc, rfl, toNat_receive_rxlen _, rfl, reception_receive _, rfl,
    rfl, history_receive_complete _ _, ?_⟩
  -- The registers that neither the acceptance nor the transaction of an XACT writes.
  simp

end Sys2Proof.Proofs
end

section
/-! The register reader (43_register_reader.md): the accepting step of READ and its own steps `Eval` and `Retry`. -/

namespace Sys2Proof.Machine

/-! ### The request in `TXBUF` -/

/-- Storing a request writes its eight bytes from index 0 and no other (20_memory.md R55). -/
theorem find_storeRequest (sid : Byte) (addr : Half) (s : State) (k : Nat) : (s.storeRequest sid addr).txbuf.find k =
    if k < 8 then (encodeRequest sid addr)[k]? else s.txbuf.find k := by
  simp [State.storeRequest, Memory.find_writeBytes]

/-- A byte of `TXBUF` that holds a value is that byte of the request. -/
theorem find_txbuf_eq_request {s : State} {k : Nat} (hk : k < 8) (hb : (s.txbuf.find k).isSome = true) :
    s.txbuf.find k = s.request[k]? := by
  obtain ⟨b, hb⟩ := Option.isSome_iff_exists.1 hb
  simp [State.request, Memory.readBytes, hk, hb, Memory.readByte_of_find .tx _ _ _ hb]

/-- Once a request is encoded, storing it again leaves every byte of `TXBUF` as it was. -/
theorem find_storeRequest_again {s : State} (h : BufferInv s) (hv : s.txvalid = true) (k : Nat) :
    (s.storeRequest s.slaveId s.regAddr).txbuf.find k = s.txbuf.find k := by
  rw [find_storeRequest]
  by_cases hk : k < 8
  · rw [if_pos hk, find_txbuf_eq_request hk ((h.txbuf_holds k).2 ⟨hv, hk⟩), h.request_eq hv]
  · rw [if_neg hk]

/-! ### What an attempt came to -/

/-- A reception with a value is a success: it is not empty. -/
theorem judge_of_decode_ok {f : List Byte} {v : Half} (h : decodeResponse f = .ok v) : judge f = .ok v := by
  have hlen : f.length ≠ 0 := by rw [(decodeResponse_eq_ok_iff.1 h).1]; decide
  simp only [judge, if_neg hlen, h]

/-- A reception that is not empty and has no value is malformed. -/
theorem judge_of_decode_error {f : List Byte} {d : DecodeError} (hlen : f.length ≠ 0)
    (h : decodeResponse f = .error d) : judge f = .error (.malformed d) := by
  simp only [judge, if_neg hlen, h]

/-- An empty reception is `NoResponse`. -/
theorem judge_of_length_eq_zero {f : List Byte} (hlen : f.length = 0) : judge f = .error .noResponse := if_pos hlen

/-! ### The steps `Eval` and `Retry` -/

/-- The word of READ, on every block. -/
theorem decodeCommand_read (cap : Nat) (sid : Byte) (addr : Half) :
    decodeCommand cap (mkWord 0x30 sid addr) = .ok (.read sid addr) :=
  decode_of_encode_eq cap (i := .read sid addr) (p := .word (mkWord 0x30 sid addr)) rfl rfl

/-- The block's turn in `EVAL` is the step `Eval`. -/
theorem step_eval {s : State} (hturn : s.turn = .block) (hs : s.seq = .eval) :
    step s = .next (stepEval s.startTurn) := by
  rw [step_busy hturn (by simp [hs])]
  simp [sequencerStep, hs]

/-- The block's turn when the delay is over is the step `Retry`. -/
theorem step_retry {s : State} (hturn : s.turn = .block) (hs : s.seq = .rdelay) (ht : s.timer = 0) :
    step s = .next (stepRetry s.startTurn) := by
  rw [step_busy hturn (by simp [hs])]
  simp [sequencerStep, hs, ht]

/-- Step `Eval` of a success. -/
theorem stepEval_of_ok {s : State} {v : Half} (h : judge s.reception = .ok v) : stepEval s = s.deliver v := by
  simp [stepEval, h]

/-- Step `Eval` of a failure with no attempt left. -/
theorem stepEval_of_last {s : State} {e : ReadError} (h : judge s.reception = .error e) (hl : s.retryLeft = 0) :
    stepEval s = s.raise (.read e) := by
  simp [stepEval, h, hl]

/-- Step `Eval` of a failure with an attempt left. -/
theorem stepEval_of_left {s : State} {e : ReadError} (h : judge s.reception = .error e) (hl : s.retryLeft ≠ 0) :
    stepEval s = { s with retryLeft := s.retryLeft - 1, timer := s.retryDelay, seq := .rdelay } := by
  have hl : s.retryLeft ≠ 0#8 := hl
  simp [stepEval, h, hl]

/-- After step `Retry` the request is that of `SLAVE_ID` and `REG_ADDR`. -/
theorem request_stepRetry (s : State) : (stepRetry s).request = encodeRequest s.slaveId s.regAddr :=
  request_storeRequest s.slaveId s.regAddr s

end Sys2Proof.Machine

namespace Sys2Proof.Proofs

open Sys2Proof.Machine

/-- Settles O30: READ stores the request and starts the first attempt. -/
theorem readAccepted : Obligations.ReadAccepted :=
  ⟨decodeCommand_read, fun s sid addr => ⟨(s.storeRequest sid addr).txbuf, find_storeRequest sid addr s, rfl⟩⟩

/-- Settles O31: the step `Eval` by what the attempt came to and by the attempts left. -/
theorem evalJudgesAttempt : Obligations.EvalJudgesAttempt := by
  intro s hturn hs
  have hstep := step_eval (turn_eq_block_iff.2 hturn) hs
  refine ⟨fun v _ hd => ?_, fun code hcode => ?_⟩
  · rw [hstep, stepEval_of_ok (s := s.startTurn) (judge_of_decode_ok hd)]
    rfl
  · have herr : ∃ e, judge s.startTurn.reception = .error e ∧ e.code = code := by
      have hne (h : s.rxlen ≠ 0) : s.startTurn.reception.length ≠ 0 := by
        rw [length_reception]
        exact fun h0 => h (BitVec.eq_of_toNat_eq h0)
      rcases hcode with ⟨hlen, rfl⟩ | ⟨hlen, hd, rfl⟩ | ⟨hlen, hd, rfl⟩ | ⟨hlen, hd, rfl⟩
      · exact ⟨_, judge_of_length_eq_zero (by rw [length_reception, State.startTurn_rxlen, hlen]; rfl), rfl⟩
      · exact ⟨_, judge_of_decode_error (hne hlen) hd, rfl⟩
      · exact ⟨_, judge_of_decode_error (hne hlen) hd, rfl⟩
      · exact ⟨_, judge_of_decode_error (hne hlen) hd, rfl⟩
    obtain ⟨e, he, rfl⟩ := herr
    refine ⟨fun hl => ?_, fun hl => ?_⟩
    · rw [hstep, stepEval_of_last he hl]
      rfl
    · rw [hstep, stepEval_of_left he hl]
      rfl

/-- Settles O32: `Retry` stores the request of `SLAVE_ID` and `REG_ADDR`, which `TXBUF` holds already where the
invariants hold. -/
theorem retryRestartsAttempt : Obligations.RetryRestartsAttempt := by
  intro s hturn hs ht
  refine ⟨(s.storeRequest s.slaveId s.regAddr).txbuf, ?_, find_storeRequest _ _ s, fun hrun hbuf => ?_⟩
  · rw [step_retry (turn_eq_block_iff.2 hturn) hs ht]
    rfl
  · exact find_storeRequest_again hbuf (hrun.txvalid_of_busy (by simp [hs]))

end Sys2Proof.Proofs
end

section
/-! The run of a whole READ (43_register_reader.md R155 to R165): its acceptance, the attempts that fail, each with its
delay, and the last attempt. -/

namespace Sys2Proof.Machine

open Sys2Proof.Claims

/-! ### One attempt -/

/-- What no step of a READ after its acceptance changes. -/
structure ReadFrame (s t : State) : Prop where
  tSettle : t.tSettle = s.tSettle := by rfl
  tResp : t.tResp = s.tResp := by rfl
  retryCount : t.retryCount = s.retryCount := by rfl
  retryDelay : t.retryDelay = s.retryDelay := by rfl
  slaveId : t.slaveId = s.slaveId := by rfl
  regAddr : t.regAddr = s.regAddr := by rfl
  crcacc : t.crcacc = s.crcacc := by rfl
  txvalid : t.txvalid = s.txvalid := by rfl
  params : t.params = s.params := by rfl
  hostCmds : t.hostCmds = s.hostCmds := by rfl

theorem ReadFrame.trans {s t u : State} (h : ReadFrame s t) (h' : ReadFrame t u) : ReadFrame s u where
  tSettle := h'.tSettle.trans h.tSettle
  tResp := h'.tResp.trans h.tResp
  retryCount := h'.retryCount.trans h.retryCount
  retryDelay := h'.retryDelay.trans h.retryDelay
  slaveId := h'.slaveId.trans h.slaveId
  regAddr := h'.regAddr.trans h.regAddr
  crcacc := h'.crcacc.trans h.crcacc
  txvalid := h'.txvalid.trans h.txvalid
  params := h'.params.trans h.params
  hostCmds := h'.hostCmds.trans h.hostCmds

/-- A READ stands before an attempt: the request is in `TXBUF`, and `ATTEMPTS` and `RETRY_LEFT` share `RETRY_COUNT`
(10_state.md R35 item 6). -/
structure BeforeAttempt (s : State) : Prop where
  seq : s.seq = .txen
  cmdop : s.cmdop = .read
  rsp : s.rsp = none
  request : s.request = encodeRequest s.slaveId s.regAddr
  budget : s.attempts.toNat + s.retryLeft.toNat = s.retryCount.toNat

/-- The attempt `a`, begun in `s`, stands in `t` at its `Eval`. -/
structure AtEval (a : Attempt) (s t : State) : Prop where
  frame : ReadFrame s t
  value : t.value = s.value
  ok : t.ok = s.ok
  cmdop : t.cmdop = .read
  rsp : t.rsp = none
  de : t.de = false
  retryLeft : t.retryLeft = s.retryLeft
  attempts : t.attempts = s.attempts + 1
  lineTx : t.lineTx = s.lineTx ++ [encodeRequest s.slaveId s.regAddr]
  lineRx : t.lineRx = bytesIn a.judge
  reception : t.reception = (s.lineRx ++ bytesIn a.send.turns).take s.params.rxcap

/-- In `EVAL`: what TIME and LINE do before the step `Eval`, and the step. -/
theorem run_eval {s : State} {ts rest : List Turn} (hs : s.seq = .eval) (hsch : s.schedule = ts ++ .block :: rest)
    (hf : waitTurns 0 ts = true) (hr : s.rsp = none) : run (ts.length + 1) s = .next (stepEval { s with
      schedule := rest
      lineRx := s.lineRx ++ bytesIn ts
      history := s.history ++ eventsIn ts }) := by
  rw [run_add (run_gap ts (by simp [State.waiting, hs]) hsch hf hr), run_succ (step_eval (by rfl) (by exact hs))]
  simp [run, State.startTurn, hr]

/-- In `RDELAY`: the delay, and the step `Retry`. -/
theorem run_retry {s : State} {ts rest : List Turn} (hs : s.seq = .rdelay) (hsch : s.schedule = ts ++ .block :: rest)
    (hf : waitTurns s.timer.toNat ts = true) (hr : s.rsp = none) : run (ts.length + 1) s = .next (stepRetry { s with
      schedule := rest
      timer := 0
      lineRx := s.lineRx ++ bytesIn ts
      history := s.history ++ eventsIn ts }) := by
  rw [run_add (run_wait ts ((waiting_iff s).2 (.inr (.inr hs))) hsch hf hr),
    run_succ (step_retry (by rfl) (by exact hs) (by rfl))]
  simp [run, State.startTurn, hr]

/-- One attempt, from `TXEN` through its `Eval`. -/
theorem run_attempt {s : State} {a : Attempt} {rest : List Turn} (h : BeforeAttempt s)
    (hsch : s.schedule = a.turns ++ rest) (hf : a.fits s.tSettle s.tResp) :
    ∃ t, run a.turns.length s = .next (stepEval t) ∧ AtEval a s t ∧ t.schedule = rest := by
  have hlen : a.turns.length = a.send.turns.length + (a.judge.length + 1) := by simp [Attempt.turns]
  have hsend := run_sending (x := a.send) (rest := a.judge ++ .block :: rest) h.seq
    (by simpa [Attempt.turns] using hsch) h.rsp hf.1
  rw [if_pos h.cmdop, stepRxRead_of_read (by exact h.cmdop)] at hsend
  have hrun := (run_add hsend _).trans (run_eval (ts := a.judge) (rest := rest) rfl rfl hf.2 h.rsp)
  rw [← hlen] at hrun
  exact ⟨_, hrun, ⟨{ }, rfl, rfl, h.cmdop, h.rsp, rfl, rfl, rfl, h.request ▸ rfl, rfl, reception_receive _⟩, rfl⟩

/-- `ATTEMPTS` does not wrap: it is at most `RETRY_COUNT` before the attempt. -/
theorem AtEval.toNat_attempts {a : Attempt} {s t : State} (h : AtEval a s t) (hs : BeforeAttempt s) :
    t.attempts.toNat = s.attempts.toNat + 1 := by
  have hbudget := hs.budget
  rw [h.attempts]
  bv_omega

/-! ### The attempts that fail -/

/-- `n` attempts of a READ, begun in `s`, failed; in `t` it stands before the next. -/
structure AttemptsFailed (n : Nat) (s t : State) : Prop where
  before : BeforeAttempt t
  frame : ReadFrame s t
  value : t.value = s.value
  ok : t.ok = s.ok
  attempts : t.attempts.toNat = s.attempts.toNat + n
  lineTx : t.lineTx = s.lineTx ++ List.replicate n (encodeRequest s.slaveId s.regAddr)

theorem AttemptsFailed.refl {s : State} (h : BeforeAttempt s) : AttemptsFailed 0 s s :=
  ⟨h, { }, rfl, rfl, rfl, by simp⟩

theorem AttemptsFailed.trans {m n : Nat} {s t u : State} (h : AttemptsFailed m s t) (h' : AttemptsFailed n t u) :
    AttemptsFailed (n + m) s u where
  before := h'.before
  frame := h.frame.trans h'.frame
  value := h'.value.trans h.value
  ok := h'.ok.trans h.ok
  attempts := by rw [h'.attempts, h.attempts]; omega
  lineTx := by
    rw [h'.lineTx, h.lineTx, h.frame.slaveId, h.frame.regAddr, List.append_assoc, List.replicate_append_replicate,
      Nat.add_comm]

/-- One attempt that fails with another left, and its delay. -/
theorem run_retried {s : State} {a : Attempt} {rest : List Turn} (h : BeforeAttempt s)
    (hsch : s.schedule = a.retried ++ rest) (hf : a.fits s.tSettle s.tResp) (hd : a.delayFits s.retryDelay)
    {e : ReadError} (hfail : judge ((s.lineRx ++ bytesIn a.send.turns).take s.params.rxcap) = .error e)
    (hcount : s.attempts.toNat < s.retryCount.toNat) :
    ∃ t, run a.retried.length s = .next t ∧ AttemptsFailed 1 s t ∧ t.schedule = rest ∧
      t.lineRx = bytesIn a.judge ++ bytesIn a.delay := by
  have hlen : a.retried.length = a.turns.length + (a.delay.length + 1) := by simp [Attempt.retried]
  obtain ⟨u, hrun, hu, hrest⟩ := run_attempt (rest := a.delay ++ .block :: rest) h
    (by simpa [Attempt.retried] using hsch) hf
  have hbudget := h.budget
  have hattempts := hu.toNat_attempts h
  have hleft : u.retryLeft ≠ 0 := by rw [hu.retryLeft]; bv_omega
  have hbudget' : u.attempts.toNat + (u.retryLeft - 1).toNat = u.retryCount.toNat := by
    rw [hattempts, hu.frame.retryCount, hu.retryLeft]
    bv_omega
  rw [← hu.frame.retryDelay] at hd
  rw [← hu.reception] at hfail
  rw [stepEval_of_left hfail hleft] at hrun
  have hrun := (run_add hrun _).trans (run_retry (ts := a.delay) (rest := rest) rfl hrest hd hu.rsp)
  rw [← hlen] at hrun
  exact ⟨_, hrun, ⟨⟨rfl, hu.cmdop, hu.rsp, request_stepRetry _, hbudget'⟩, { hu.frame with }, hu.value, hu.ok,
    hattempts, hu.lineTx⟩, rfl, congrArg (· ++ bytesIn a.delay) hu.lineRx⟩

/-- A series of attempts that fail, each with its delay. -/
theorem run_fails (fails : List Attempt) : ∀ {s : State} {rest : List Turn}, BeforeAttempt s →
    s.schedule = fails.flatMap Attempt.retried ++ rest →
    (∀ a ∈ fails, a.fits s.tSettle s.tResp ∧ a.delayFits s.retryDelay) →
    (∀ r ∈ received s.lineRx fails, ∃ e, judge (r.take s.params.rxcap) = .error e) →
    s.attempts.toNat + fails.length ≤ s.retryCount.toNat →
    ∃ t, run (fails.flatMap Attempt.retried).length s = .next t ∧ AttemptsFailed fails.length s t ∧
      t.schedule = rest ∧ t.lineRx = carryAfter s.lineRx fails := by
  induction fails with
  | nil => exact fun h hsch _ _ _ => ⟨_, rfl, .refl h, hsch, rfl⟩
  | cons a as ih =>
    intro s rest h hsch hf hfail hcount
    obtain ⟨e, he⟩ := hfail _ (.head _)
    obtain ⟨hfa, hda⟩ := hf a (.head _)
    rw [List.length_cons] at hcount
    obtain ⟨t, hrun, ht, hrest, hline⟩ := run_retried (rest := as.flatMap Attempt.retried ++ rest) h
      (by simpa using hsch) hfa hda he (by omega)
    obtain ⟨u, hrun', hu, hrest', hline'⟩ := ih ht.before hrest
      (by rw [ht.frame.tSettle, ht.frame.tResp, ht.frame.retryDelay]; exact fun b hb => hf b (.tail _ hb))
      (by rw [hline, ht.frame.params]; exact fun r hr => hfail r (.tail _ hr))
      (by rw [ht.attempts, ht.frame.retryCount]; omega)
    rw [hline] at hline'
    refine ⟨u, ?_, ht.trans hu, hrest', hline'⟩
    rw [List.flatMap_cons, List.length_append, run_add hrun, hrun']

/-! ### Acceptance and the end -/

/-- What a READ of `sid` and `addr`, accepted in `s`, has done in `t`, before its first attempt. -/
structure ReadBegun (sid : Byte) (addr : Half) (s t : State) : Prop where
  before : BeforeAttempt t
  frame : ReadFrame { s with slaveId := sid, regAddr := addr, txvalid := true, hostCmds := s.hostCmds.tail } t
  attempts : t.attempts.toNat = 0
  ok : t.ok = false
  value : t.value = s.value
  lineTx : t.lineTx = s.lineTx
  lineRx : t.lineRx = s.lineRx
  schedule : t.schedule = s.schedule.tail

/-- The block's turn in `IDLE` with a READ on the port (43_register_reader.md R156). -/
theorem step_acceptRead {s : State} {sid : Byte} {addr : Half} {ws : List Word} (hturn : s.turn = .block)
    (hs : s.seq = .idle) (hc : s.hostCmds = mkWord 0x30 sid addr :: ws) :
    ∃ t, step s = .next t ∧ ReadBegun sid addr s t :=
  ⟨_, (step_accept hturn hs hc (decodeCommand_read _ _ _)).trans (exec_read _ _ _),
    ⟨rfl, rfl, rfl, request_storeRequest _ _ _, Nat.zero_add _⟩, { }, rfl, rfl, rfl, rfl, rfl, rfl⟩

/-- `Eval` ends the READ on a success, and on any outcome when no attempt is left. -/
theorem seq_stepEval_of_end {s : State} (h : (∃ v, judge s.reception = .ok v) ∨ s.retryLeft = 0) :
    (stepEval s).seq = .idle := by
  rcases stepEval_cases s with ⟨v, -, e⟩ | ⟨r, -, -, e⟩ | ⟨r, hj, hl, e⟩
  · rw [e]; rfl
  · rw [e]; rfl
  · exact h.elim (fun ⟨v, hv⟩ => by rw [hj] at hv; cases hv) (absurd · hl)

/-- What `Eval` leaves as it is, whatever the attempt came to. -/
theorem readFrame_stepEval (s : State) : ReadFrame s (stepEval s) ∧ (stepEval s).attempts = s.attempts ∧
    (stepEval s).schedule = s.schedule ∧ (stepEval s).reception = s.reception := by
  rcases stepEval_cases s with ⟨v, -, e⟩ | ⟨r, -, -, e⟩ | ⟨r, -, -, e⟩ <;> rw [e] <;> exact ⟨{ }, rfl, rfl, rfl⟩

end Sys2Proof.Machine

namespace Sys2Proof.Proofs

open Sys2Proof.Machine Sys2Proof.Claims

/-- Settles O33: acceptance, the attempts that fail by induction on their list, and the last attempt, whose `Eval` ends
the READ. -/
theorem readRunsToCompletion : Obligations.ReadRunsToCompletion := by
  intro s sid addr ws fails last rest hs hc hf hlast hsch hfail got verdict hcount hend
  obtain ⟨r, haccept, hr⟩ := step_acceptRead (by simp [State.turn, hsch]) hs hc
  obtain ⟨t, hfails, ht, hrest, hline⟩ := run_fails fails hr.before (hr.schedule.trans (congrArg List.tail hsch))
    (by rwa [hr.frame.tSettle, hr.frame.tResp, hr.frame.retryDelay]) (by rwa [hr.lineRx, hr.frame.params])
    (by rwa [hr.attempts, hr.frame.retryCount, Nat.zero_add])
  have hframe := hr.frame.trans ht.frame
  obtain ⟨u, hrun, hu, hrest'⟩ := run_attempt ht.before hrest (by rwa [hframe.tSettle, hframe.tResp])
  have hreceived : u.reception = got.take s.params.rxcap := by
    rw [hu.reception, hline, hframe.params, hr.lineRx]
  have hjudge : judge u.reception = verdict := congrArg judge hreceived
  have hmade : t.attempts.toNat = fails.length := by rw [ht.attempts, hr.attempts, Nat.zero_add]
  have hleft (h : fails.length = s.retryCount.toNat) : u.retryLeft = 0 := by
    have hbudget := ht.before.budget
    rw [hmade, hframe.retryCount, h] at hbudget
    rw [hu.retryLeft]
    bv_omega
  obtain ⟨heval, hattempts, hschedule, hreception⟩ := readFrame_stepEval u
  have hkept := (hframe.trans hu.frame).trans heval
  have hl := line_stepEval u
  have hsent : u.lineTx = s.lineTx ++ List.replicate (fails.length + 1) (encodeRequest sid addr) := by
    rw [hu.lineTx, ht.lineTx, hr.lineTx, hframe.slaveId, hframe.regAddr, hr.frame.slaveId, hr.frame.regAddr,
      List.replicate_succ', List.append_assoc]
  refine ⟨stepEval u, ?_, seq_stepEval_of_end (by rw [hjudge]; exact hend.imp_right hleft),
    (congrArg Line.de hl).trans hu.de, hkept.hostCmds.trans (congrArg List.tail hc), hschedule.trans hrest',
    (congrArg Line.lineRx hl).trans hu.lineRx, ?_, hkept.slaveId, hkept.regAddr, hkept.txvalid,
    (congrArg Line.lineTx hl).trans hsent, hreception.trans hreceived, hkept.crcacc, hkept.tSettle, hkept.tResp,
    hkept.retryCount, hkept.retryDelay, fun v hv => ?_, fun e he => ?_⟩
  · have hlen : s.schedule.length - rest.length =
        (fails.flatMap Attempt.retried).length + last.turns.length + 1 := by
      rw [hsch]
      simp only [List.length_cons, List.length_append]
      omega
    rw [hlen, run_succ haccept, run_add hfails, hrun]
  · rw [hattempts, hu.toNat_attempts ht.before, hmade]
  · rw [stepEval_of_ok (hjudge.trans hv)]
    exact ⟨rfl, rfl, rfl, rfl⟩
  · have hnone : u.retryLeft = 0 := hleft (hend.resolve_left fun ⟨v, hv⟩ => by rw [he] at hv; cases hv)
    rw [stepEval_of_last (hjudge.trans he) hnone]
    exact ⟨rfl, hu.value.trans (ht.value.trans hr.value), hu.ok.trans (ht.ok.trans hr.ok), rfl⟩

end Sys2Proof.Proofs
end

section
/-! The system commands (44_system_commands.md): what NOP, SET and GET answer, and what is refused. -/

namespace Sys2Proof.Machine

open Sys2Proof.Claims

/-! ### The answers of SET and GET -/

/-- A legal SET writes its register and answers the value (44_system_commands.md R177). -/
theorem exec_set_of_legal {r : Reg} {imm : Half} (s : State) (h : setLegal r.index imm = true) :
    exec (.set r.index imm) s = .next (answered (mkWord 0x00 0x00 imm) (setData r imm s)) := by
  simp only [exec, execSet, ofIndex_index, if_pos h, respond_ok]

/-- Any other SET is an illegal command. -/
theorem exec_set_of_not_legal {a : Byte} {imm : Half} (s : State) (h : ¬ setLegal a imm = true) :
    exec (.set a imm) s = .next (s.raise .illegalCommand) := by
  cases hr : Reg.ofIndex a with
  | none => simp only [exec, execSet, hr]
  | some r => simp only [exec, execSet, hr, if_neg h]

/-- A legal GET that finds a value answers it and writes nothing (44_system_commands.md R178). -/
theorem exec_get_of_ok {r : Reg} {imm d : Half} {s : State} (h : getLegal s.params.rxcap r.index imm = true)
    (hd : getData r imm s = .ok d) : exec (.get r.index imm) s = .next (answered (mkWord 0x00 0x00 d) s) := by
  simp only [exec, execGet, ofIndex_index, if_pos h, hd, respond_ok]

/-- A legal GET that finds none is the error of what it found. -/
theorem exec_get_of_error {r : Reg} {imm : Half} {s : State} {e : Status}
    (h : getLegal s.params.rxcap r.index imm = true) (hd : getData r imm s = .error e) :
    exec (.get r.index imm) s = .next (s.raise e) := by
  simp only [exec, execGet, ofIndex_index, if_pos h, hd]

/-- Any other GET is an illegal command. -/
theorem exec_get_of_not_legal {a : Byte} {imm : Half} {s : State} (h : ¬ getLegal s.params.rxcap a imm = true) :
    exec (.get a imm) s = .next (s.raise .illegalCommand) := by
  cases hr : Reg.ofIndex a with
  | none => simp only [exec, execGet, hr]
  | some r => simp only [exec, execGet, hr, if_neg h]

/-- Error entry of a GET that finds no value, in `IDLE`, is its answer and nothing else (60_exceptions.md R205). -/
theorem raise_noData_of_idle {s : State} (hs : s.seq = .idle) : s.raise .noData = answered 0xE2000000 s := by
  cases s
  cases hs
  rfl

/-! ### What a GET of a register finds -/

/-- FLAGS as a number: `TXVALID`, `RXOVF` and `OK` in bits 2, 1 and 0 (10_state.md R23). -/
theorem State.flags_eq_ofNat (s : State) :
    s.flags = BitVec.ofNat 16 (4 * s.txvalid.toNat + 2 * s.rxovf.toNat + s.ok.toNat) := by
  have h : ∀ txvalid rxovf ok : Bool,
      flagsValue txvalid rxovf ok = BitVec.ofNat 16 (4 * txvalid.toNat + 2 * rxovf.toNat + ok.toNat) := by decide
  exact h _ _ _

/-- A byte of a request that has been encoded. -/
theorem getData_txbuf_of_find {s : State} {imm : Half} {b : Byte} (hv : s.txvalid = true)
    (hb : s.txbuf.find imm.toNat = some b) : getData .txbuf imm s = .ok (zext16 b) := by
  simp only [getData, if_pos hv, State.txByte, Memory.readByte_of_find _ _ _ _ hb]

/-- A byte of the last reception. -/
theorem getData_rxbuf_of_find {s : State} {imm : Half} {b : Byte} (hlt : imm.toNat < s.rxlen.toNat)
    (hb : s.rxbuf.find imm.toNat = some b) : getData .rxbuf imm s = .ok (zext16 b) := by
  simp only [getData, if_pos hlt, State.rxByte, Memory.readByte_of_find _ _ _ _ hb]

/-- Before an ENC or READ no byte of `TXBUF` holds a value. -/
theorem getData_txbuf_of_not_txvalid {s : State} (imm : Half) (hv : s.txvalid = false) :
    getData .txbuf imm s = .error .noData := by
  simp [getData, hv]

/-- At `RXLEN` and above no byte of `RXBUF` holds a value. -/
theorem getData_rxbuf_of_le {s : State} {imm : Half} (hle : s.rxlen.toNat ≤ imm.toNat) :
    getData .rxbuf imm s = .error .noData := if_neg (not_lt.2 hle)

/-! ### Which SETs and GETs are refused -/

/-- A SET outside the configuration registers, or of `RETRY_COUNT` above its range, is illegal. -/
theorem not_setLegal {a : Byte} {imm : Half}
    (h : a ∉ [0x00, 0x01, 0x02, 0x03] ∨ (a = 0x02 ∧ 255 < imm.toNat)) : ¬ setLegal a imm = true := by
  rw [setLegal_iff]
  rcases h with ha | ⟨rfl, hlt⟩
  · rintro (rfl | rfl | rfl | ⟨rfl, -⟩) <;> simp at ha
  · simpa using hlt

/-- A GET of an index outside the map, of a register with a nonzero operand, or of a byte outside its buffer is
illegal. -/
theorem not_getLegal {cap : Nat} {a : Byte} {imm : Half}
    (h : a ∉ [0x00, 0x01, 0x02, 0x03, 0x10, 0x11, 0x12, 0x13, 0x14, 0x15, 0x16, 0x17, 0x20, 0x30] ∨
      (a ∉ [0x20, 0x30] ∧ imm ≠ 0) ∨ (a = 0x20 ∧ 7 < imm.toNat) ∨ (a = 0x30 ∧ cap ≤ imm.toNat)) :
    ¬ getLegal cap a imm = true := by
  rw [getLegal_iff]
  rcases h with ha | ⟨ha, himm⟩ | ⟨rfl, hlt⟩ | ⟨rfl, hle⟩
  · rintro (⟨hreg, -⟩ | ⟨rfl, -⟩ | ⟨rfl, -⟩)
    · exact ha (List.mem_append_left [0x20, 0x30] hreg)
    · simp at ha
    · simp at ha
  · rintro (⟨-, h0⟩ | ⟨rfl, -⟩ | ⟨rfl, -⟩)
    · exact himm h0
    · simp at ha
    · simp at ha
  · simpa using hlt
  · simpa using hle

end Sys2Proof.Machine

namespace Sys2Proof.Proofs

open Sys2Proof.Machine

/-- Settles O11: what each register and each buffer byte is found to hold, and the indices and operands that are no
legal GET. -/
theorem getReadsRegister : Obligations.GetReadsRegister := by
  refine ⟨fun s => ⟨exec_get_of_ok (r := .tSettle) rfl rfl, exec_get_of_ok (r := .tResp) rfl rfl,
      exec_get_of_ok (r := .retryCount) rfl rfl, exec_get_of_ok (r := .retryDelay) rfl rfl,
      exec_get_of_ok (r := .flags) rfl (congrArg Except.ok s.flags_eq_ofNat), exec_get_of_ok (r := .crcacc) rfl rfl,
      exec_get_of_ok (r := .value) rfl rfl, exec_get_of_ok (r := .err) rfl rfl, exec_get_of_ok (r := .rxlen) rfl rfl,
      exec_get_of_ok (r := .attempts) rfl rfl, exec_get_of_ok (r := .slaveId) rfl rfl,
      exec_get_of_ok (r := .regAddr) rfl rfl⟩, ?_, ?_, ?_, ?_, ?_⟩
  · exact fun s imm b hv hle hb =>
      exec_get_of_ok (r := .txbuf) (getLegal_iff.2 (.inr (.inl ⟨rfl, hle⟩))) (getData_txbuf_of_find hv hb)
  · exact fun s imm b hlt hcap hb =>
      exec_get_of_ok (r := .rxbuf) (getLegal_iff.2 (.inr (.inr ⟨rfl, hcap⟩))) (getData_rxbuf_of_find hlt hb)
  · intro s imm hs hv hle
    rw [← raise_noData_of_idle hs]
    exact exec_get_of_error (r := .txbuf) (getLegal_iff.2 (.inr (.inl ⟨rfl, hle⟩)))
      (getData_txbuf_of_not_txvalid imm hv)
  · intro s imm hs hle hcap
    rw [← raise_noData_of_idle hs]
    exact exec_get_of_error (r := .rxbuf) (getLegal_iff.2 (.inr (.inr ⟨rfl, hcap⟩))) (getData_rxbuf_of_le hle)
  · intro s a imm hs h
    rw [exec_get_of_not_legal (not_getLegal h), raise_illegalCommand_of_idle hs]

/-- Settles O9: the row's word, its meaning, and the fields that format N asks to be zero. -/
theorem nopAnswersZero : Obligations.NopAnswersZero := by
  refine ⟨fun cap => decode_of_encode_eq cap (i := .nop) (p := .word 0x00000000) rfl rfl,
    fun s => congrArg Host.Outcome.next (respond_ok 0 s), fun cap w hop hw => ?_⟩
  refine exists_error_of_format_n (by simp [hop]) (not_and_or.1 fun ⟨ha, himm⟩ => hw ?_)
  calc w = mkWord (opField w) (aField w) (immField w) := (mkWord_fields w).symm
    _ = mkWord 0 0 0 := by rw [hop, ha, himm]

/-- Settles O10: the four configuration registers, each written whole, and the SETs that are not legal. -/
theorem setWritesRegister : Obligations.SetWritesRegister := by
  refine ⟨fun cap a imm h => ?_, fun s imm => exec_set_of_legal (r := .tSettle) s (setLegal_iff.2 (.inl rfl)),
    fun s imm => exec_set_of_legal (r := .tResp) s (setLegal_iff.2 (.inr (.inl rfl))), fun s imm hle => ?_,
    fun s imm => exec_set_of_legal (r := .retryDelay) s (setLegal_iff.2 (.inr (.inr (.inl rfl)))),
    fun s a imm hs h => ?_⟩
  · have hwf : (Instr.set a imm).wf cap = true := setLegal_iff.2 (by tauto)
    exact decode_of_encode_eq cap (p := .word (mkWord 0x01 a imm)) hwf rfl
  · exact exec_set_of_legal (r := .retryCount) s (setLegal_iff.2 (.inr (.inr (.inr ⟨rfl, hle⟩))))
  · rw [exec_set_of_not_legal s (not_setLegal h), raise_illegalCommand_of_idle hs]

end Sys2Proof.Proofs
end

section
/-! The reference host's Snapshot (45_host_poll_cycle.md R195, R196, R200): one address of the list after another, and
the answers to its READ among the events of the cycle. -/

namespace Sys2Proof.Machine

open Sys2Proof.Claims

/-! ### The Snapshot, address by address -/

/-- The last address of the list is read into the Snapshot of those before it (45_host_poll_cycle.md R195). -/
theorem snapshotOf_concat (sid : Byte) (addrs : List Half) (a : Half) (cycle : List Event) :
    snapshotOf sid (addrs ++ [a]) cycle =
      (answersTo (Opcode.read.word sid a) false cycle).foldl (fun m w => m.answer a w) (snapshotOf sid addrs cycle) :=
  List.foldl_append

/-- A READ of an address was answered `OK` with a value exactly when that success is among the address's answers. -/
theorem answeredOk_iff {sid : Byte} {a v : Half} {cycle : List Event} :
    answeredOk sid a v cycle ↔
      ∃ w ∈ answersTo (Opcode.read.word sid a) false cycle, opField w = Status.ok.code ∧ immField w = v := by
  simp only [mem_answersTo_iff, Bool.false_eq_true, false_and, false_or]
  constructor
  · rintro ⟨before, quiet, after, w, hcycle, hquiet, hw⟩
    exact ⟨w, ⟨before, quiet, after, hcycle, hquiet⟩, hw⟩
  · rintro ⟨w, ⟨before, quiet, after, hcycle, hquiet⟩, hw⟩
    exact ⟨before, quiet, after, w, hcycle, hquiet, hw⟩

/-- Some READ of an address was answered `OK` exactly when a success is among its answers. -/
theorem exists_answeredOk_iff {sid : Byte} {a : Half} {cycle : List Event} :
    (∃ v, answeredOk sid a v cycle) ↔
      ∃ w ∈ answersTo (Opcode.read.word sid a) false cycle, opField w = Status.ok.code := by
  simp only [answeredOk_iff]
  exact ⟨fun ⟨_, w, hw, hok, _⟩ => ⟨w, hw, hok⟩, fun ⟨w, hw, hok⟩ => ⟨_, w, hw, hok, rfl⟩⟩

/-- No address is in the Snapshot twice (45_host_poll_cycle.md R200). -/
theorem nodup_map_fst_snapshotOf (sid : Byte) (addrs : List Half) (cycle : List Event) :
    ((snapshotOf sid addrs cycle).map Prod.fst).Nodup := by
  induction addrs using List.reverseRecOn with
  | nil => exact List.nodup_nil
  | append_singleton addrs a ih =>
    rw [snapshotOf_concat, Snapshot.map_fst_answers]
    split
    · next h => exact List.concat_eq_append ▸ ih.concat h.2
    · exact ih

/-- The Snapshot's addresses are some of the list's, in its order (45_host_poll_cycle.md R196). -/
theorem map_fst_snapshotOf_sublist (sid : Byte) (addrs : List Half) (cycle : List Event) :
    ((snapshotOf sid addrs cycle).map Prod.fst).Sublist addrs := by
  induction addrs using List.reverseRecOn with
  | nil => exact .slnil
  | append_singleton addrs a ih =>
    rw [snapshotOf_concat, Snapshot.map_fst_answers]
    split
    · exact ih.append_right [a]
    · exact ih.trans (List.sublist_append_left addrs [a])

/-- An entry's value is that of a READ of its address answered `OK` (45_host_poll_cycle.md R196). -/
theorem answeredOk_of_mem_snapshotOf {sid : Byte} {addrs : List Half} {cycle : List Event} {p : Half × Half}
    (h : p ∈ snapshotOf sid addrs cycle) : answeredOk sid p.1 p.2 cycle := by
  induction addrs using List.reverseRecOn with
  | nil => cases h
  | append_singleton addrs a ih =>
    rw [snapshotOf_concat] at h
    rcases Snapshot.mem_answers _ h with ⟨rfl, hw⟩ | h
    · exact answeredOk_iff.2 hw
    · exact ih h

/-- An address of the list of which a READ was answered `OK` is in the Snapshot (45_host_poll_cycle.md R196). -/
theorem mem_map_fst_snapshotOf {sid : Byte} {addrs : List Half} {cycle : List Event} {a : Half} (ha : a ∈ addrs)
    (h : ∃ v, answeredOk sid a v cycle) : a ∈ (snapshotOf sid addrs cycle).map Prod.fst := by
  induction addrs using List.reverseRecOn with
  | nil => cases ha
  | append_singleton addrs b ih =>
    rw [snapshotOf_concat, Snapshot.map_fst_answers]
    rcases List.mem_append.1 ha with ha | ha
    · split <;> simp only [List.mem_append, ih ha, true_or]
    · obtain rfl := List.mem_singleton.1 ha
      by_cases hmem : a ∈ (snapshotOf sid addrs cycle).map Prod.fst
      · rwa [if_neg fun hnew => hnew.2 hmem]
      · rw [if_pos ⟨exists_answeredOk_iff.1 h, hmem⟩]
        exact List.mem_append_right _ (List.mem_singleton_self a)

end Sys2Proof.Machine

namespace Sys2Proof.Proofs

open Sys2Proof.Machine Sys2Proof.Claims

/-- Settles O54: the list is read from its first address on, and each address appends at most itself. -/
theorem snapshotOnlySuccessfullyRead : Obligations.SnapshotOnlySuccessfullyRead := by
  intro sid addrs cycle
  have hsub := map_fst_snapshotOf_sublist sid addrs cycle
  refine ⟨nodup_map_fst_snapshotOf sid addrs cycle, fun _ => hsub, fun p hp => ?_, fun a ha h => ?_⟩
  · exact ⟨hsub.subset (List.mem_map_of_mem hp), answeredOk_of_mem_snapshotOf hp⟩
  · obtain ⟨⟨_, v⟩, hv, rfl⟩ := List.mem_map.1 (mem_map_fst_snapshotOf ha h)
    exact ⟨v, hv⟩

end Sys2Proof.Proofs

namespace Sys2Proof.Machine

open Sys2Proof.Claims

/-! ### The answers to the READs of a cycle -/

/-- The READ of one address is not the READ of another. -/
theorem readWord_beq_readWord (sid : Byte) (a b : Half) :
    (mkWord 0x30 sid a == Opcode.read.word sid b) = decide (a = b) := by
  rw [beq_eq_decide]
  refine decide_eq_decide.2 ⟨fun h => ?_, fun h => congrArg _ h⟩
  simpa only [Opcode.word, immField_mkWord] using congrArg immField h

/-- The exchanges of a cycle begin with a command, if there are any. -/
theorem flatMap_events_head (sid : Byte) (xs : List Exchange) :
    xs.flatMap (Exchange.events sid) = [] ∨ ∃ w r, xs.flatMap (Exchange.events sid) = .cmd w :: r := by
  cases xs with
  | nil => exact .inl rfl
  | cons x xs => exact .inr ⟨_, _, rfl⟩

/-- An exchange answers the READ of its own address, with its response word or not at all, and no other READ
(70_reset_and_hazards.md R236). -/
theorem answersTo_events_append {sid : Byte} {x : Exchange} (hx : x.fits) (a : Half) {h : List Event}
    (hh : h = [] ∨ ∃ w r, h = .cmd w :: r) :
    answersTo (Opcode.read.word sid a) false (x.events sid ++ h) =
      (if x.addr = a then x.answer.toList else []) ++ answersTo (Opcode.read.word sid a) false h := by
  obtain ⟨addr, quiet, answer, gap⟩ := x
  obtain ⟨hquiet, hgap⟩ := hx
  have hnot : .cmd (Opcode.read.word sid a) ∉ gap := fun hmem => hgap _ hmem (opField_mkWord _ _ _)
  have hrest : answersTo (Opcode.read.word sid a) false (gap ++ h) = answersTo (Opcode.read.word sid a) false h := by
    rw [answersTo_append_of_not_mem gap h hnot hh, answersTo_of_not_mem gap hnot, List.nil_append]
  cases answer with
  | none =>
    simp only [Exchange.events, List.cons_append, List.append_assoc, answersTo, answersTo_quiet _ _ quiet _ hquiet,
      hrest, Option.toList_none, ite_self, List.nil_append]
  | some w =>
    simp only [Exchange.events, List.cons_append, List.append_assoc, answersTo, answersTo_quiet _ _ quiet _ hquiet,
      hrest, readWord_beq_readWord, decide_eq_true_eq, Option.toList_some]
    split <;> rfl

/-- The answers to the READs of an address are those of its exchanges. -/
theorem answersTo_flatMap_events {sid : Byte} {xs : List Exchange} (hxs : ∀ x ∈ xs, x.fits) (a : Half) :
    answersTo (Opcode.read.word sid a) false (xs.flatMap (Exchange.events sid)) =
      xs.flatMap fun x => if x.addr = a then x.answer.toList else [] := by
  induction xs with
  | nil => rfl
  | cons x xs ih =>
    rw [List.forall_mem_cons] at hxs
    rw [List.flatMap_cons, answersTo_events_append hxs.1 a (flatMap_events_head sid xs), ih hxs.2, List.flatMap_cons]

/-- An address without an exchange has no answer. -/
theorem answersTo_flatMap_events_of_not_mem {sid : Byte} {xs : List Exchange} (hxs : ∀ x ∈ xs, x.fits) {a : Half}
    (ha : a ∉ xs.map Exchange.addr) :
    answersTo (Opcode.read.word sid a) false (xs.flatMap (Exchange.events sid)) = [] := by
  rw [answersTo_flatMap_events hxs, List.flatMap_eq_nil_iff]
  exact fun x hx => if_neg fun h => ha (List.mem_map.2 ⟨x, hx, h⟩)

/-- With distinct addresses the READ of an address has the answer of its one exchange. -/
theorem answersTo_flatMap_events_of_mem {sid : Byte} {xs : List Exchange} (hxs : ∀ x ∈ xs, x.fits)
    (hnodup : (xs.map Exchange.addr).Nodup) {x : Exchange} (hx : x ∈ xs) :
    answersTo (Opcode.read.word sid x.addr) false (xs.flatMap (Exchange.events sid)) = x.answer.toList := by
  induction xs with
  | nil => cases hx
  | cons y ys ih =>
    rw [List.forall_mem_cons] at hxs
    rw [List.map_cons, List.nodup_cons] at hnodup
    rw [List.flatMap_cons, answersTo_events_append hxs.1 _ (flatMap_events_head sid ys)]
    rcases List.mem_cons.1 hx with rfl | hx
    · rw [if_pos rfl, answersTo_flatMap_events_of_not_mem hxs.2 hnodup.1, List.append_nil]
    · have hne : y.addr ≠ x.addr := fun e => hnodup.1 (e ▸ List.mem_map_of_mem hx)
      rw [if_neg hne, ih hxs.2 hnodup.2 hx, List.nil_append]

/-! ### What the exchanges of a cycle put into the Snapshot -/

/-- What an exchange adds to the Snapshot: its address with the data of a response word of status `OK`. -/
def entryOf (x : Exchange) : Option (Half × Half) :=
  x.answer.bind fun w => if opField w = 0x00 then some (x.addr, immField w) else none

/-- A new address goes to the end of the Snapshot. -/
theorem Snapshot.put_of_not_mem {m : Snapshot} {a : Half} (v : Half) (h : a ∉ m.map Prod.fst) :
    m.put a v = m ++ [(a, v)] := by
  induction m with
  | nil => rfl
  | cons p m ih =>
    obtain ⟨b, u⟩ := p
    rw [List.map_cons, List.mem_cons, not_or] at h
    rw [Snapshot.put, if_neg (Ne.symm h.1), ih h.2, List.cons_append]

/-- The one answer to a new address puts that exchange's entry, if there is one, at the end of the Snapshot. -/
theorem Snapshot.foldl_answer_toList {m : Snapshot} {x : Exchange} (h : x.addr ∉ m.map Prod.fst) :
    x.answer.toList.foldl (fun m w => m.answer x.addr w) m = m ++ (entryOf x).toList := by
  obtain ⟨addr, quiet, _ | w, gap⟩ := x
  · simp [entryOf]
  · have hanswer : m.answer addr w = if opField w = 0x00 then m ++ [(addr, immField w)] else m := by
      rw [← Snapshot.put_of_not_mem _ h]
      rfl
    rw [Option.toList_some, List.foldl_cons, List.foldl_nil, hanswer, entryOf, Option.bind_some]
    split
    · rfl
    · exact (List.append_nil m).symm

/-- Addresses without an answer leave the Snapshot as it is. -/
theorem snapshotOf_append_of_unanswered {sid : Byte} {cycle : List Event} (addrs : List Half) {later : List Half}
    (h : ∀ a ∈ later, answersTo (Opcode.read.word sid a) false cycle = []) :
    snapshotOf sid (addrs ++ later) cycle = snapshotOf sid addrs cycle := by
  induction later using List.reverseRecOn with
  | nil => rw [List.append_nil]
  | append_singleton later a ih =>
    rw [List.forall_mem_append, List.forall_mem_singleton] at h
    rw [← List.append_assoc, snapshotOf_concat, h.2, List.foldl_nil, ih h.1]

/-- The Snapshot of addresses each of which has the answer of its exchange holds the exchanges' entries, in order. -/
theorem snapshotOf_map_addr {sid : Byte} {cycle : List Event} {xs : List Exchange}
    (h : ∀ x ∈ xs, answersTo (Opcode.read.word sid x.addr) false cycle = x.answer.toList)
    (hnodup : (xs.map Exchange.addr).Nodup) :
    snapshotOf sid (xs.map Exchange.addr) cycle = xs.filterMap entryOf := by
  induction xs using List.reverseRecOn with
  | nil => rfl
  | append_singleton xs x ih =>
    rw [List.forall_mem_append, List.forall_mem_singleton] at h
    rw [List.map_append, List.map_singleton, List.nodup_append_comm, List.singleton_append, List.nodup_cons] at hnodup
    have hnew : x.addr ∉ (snapshotOf sid (xs.map Exchange.addr) cycle).map Prod.fst := fun hmem =>
      hnodup.1 ((map_fst_snapshotOf_sublist sid _ cycle).subset hmem)
    rw [List.map_append, List.map_singleton, snapshotOf_concat, h.2, Snapshot.foldl_answer_toList hnew,
      ih h.1 hnodup.2, List.filterMap_append]
    cases hentry : entryOf x <;> simp [hentry]

end Sys2Proof.Machine

namespace Sys2Proof.Proofs

open Sys2Proof.Machine Sys2Proof.Claims

/-- Settles O53: each address read so far has the answer of its own exchange, and the later ones have none. -/
theorem snapshotHoldsSuccessfulReads : Obligations.SnapshotHoldsSuccessfulReads := by
  intro sid xs later hnodup hfits
  obtain ⟨hread, -, hdisjoint⟩ := List.nodup_append'.1 hnodup
  rw [snapshotOf_append_of_unanswered _ fun a ha =>
    answersTo_flatMap_events_of_not_mem hfits fun hmem => hdisjoint hmem ha]
  exact snapshotOf_map_addr (fun _ => answersTo_flatMap_events_of_mem hfits hread) hread

end Sys2Proof.Proofs
end

section
/-! What never happens, and what may happen on the ports: the asynchronous events do no more than their rule says
(60_exceptions.md R211), no step stops the block (R215), and each command and each state has statuses of its own (R206). -/

namespace Sys2Proof.Machine

/-! ### Nothing stops the block -/

/-- SET answers a next state, whatever its operands (44_system_commands.md R177). -/
theorem exists_execSet (a : Byte) (imm : Half) (s : State) : ∃ t, execSet a imm s = .next t := by
  unfold execSet
  split
  · exact ⟨_, rfl⟩
  · split <;> exact ⟨_, rfl⟩

/-- GET answers a next state, whatever its operands and whether or not the byte holds a value (44_system_commands.md
R178). -/
theorem exists_execGet (a : Byte) (imm : Half) (s : State) : ∃ t, execGet a imm s = .next t := by
  unfold execGet
  split
  · exact ⟨_, rfl⟩
  · split
    · split <;> exact ⟨_, rfl⟩
    · exact ⟨_, rfl⟩

/-- DEC answers a next state, whatever was received (41_frame_codec.md R123). -/
theorem exists_execDec (s : State) : ∃ t, execDec s = .next t := by
  unfold execDec
  split <;> exact ⟨_, rfl⟩

/-- Every instruction answers a next state. -/
theorem exists_exec (i : Instr) (s : State) : ∃ t, exec i s = .next t := by
  cases i with
  | nop | crcinit | crcbyte | enc | read | req03 | rsp03 => exact ⟨_, rfl⟩
  | set a imm => exact exists_execSet a imm s
  | get a imm => exact exists_execGet a imm s
  | xact =>
    cases hv : s.txvalid with
    | true => exact ⟨_, exec_xact_of_txvalid hv⟩
    | false => exact ⟨_, exec_xact_of_not_txvalid hv⟩
  | dec => exact exists_execDec s

/-- Every step answers a next state: outside the acceptance of a command it is one as it stands. -/
theorem exists_step (s : State) : ∃ t, step s = .next t := by
  rcases step_cases s with ⟨-, e⟩ | ⟨-, e⟩ | ⟨bytes, -, e⟩ | ⟨-, -, -, e⟩ | ⟨w, ws, r, -, -, -, -, e⟩ |
    ⟨w, ws, i, -, -, -, -, e⟩ | ⟨-, -, e⟩
  · exact ⟨_, e⟩
  · exact ⟨_, e⟩
  · exact ⟨_, e⟩
  · exact ⟨_, e⟩
  · exact ⟨_, e⟩
  · exact e ▸ exists_exec i _
  · exact ⟨_, e⟩

end Sys2Proof.Machine

namespace Sys2Proof

/-- The codes of the statuses an instruction can answer with in its own step (60_exceptions.md R206). -/
def Instr.statuses : Instr → List Byte
  | .nop | .crcinit | .crcbyte _ | .enc _ _ => [0x00]
  | .set _ _ => [0x00, 0xE0]
  | .get _ _ => [0x00, 0xE0, 0xE2]
  | .xact => [0xE1]
  | .dec => [0x00, 0x01, 0x02, 0x03]
  | .read _ _ | .req03 _ _ | .rsp03 _ _ _ => []

end Sys2Proof

namespace Sys2Proof.Machine

/-! ### Which statuses are answered -/

/-- The codes of the statuses a busy block can answer with in a step from a state of `SEQ` (60_exceptions.md R206). -/
def Seq.statuses : Seq → List Byte
  | .rxwait => [0x00]
  | .eval => [0x00, 0x10, 0x11, 0x12, 0x13]
  | .idle | .txen | .write | .settle | .rdelay => []

/-- The codes DEC answers an error with (60_exceptions.md R205). -/
theorem DecodeError.code_mem (d : DecodeError) : d.code ∈ [0x01, 0x02, 0x03] := by cases d <;> decide

/-- The codes READ answers an error with (60_exceptions.md R205). -/
theorem ReadError.code_mem (e : ReadError) : e.code ∈ [0x10, 0x11, 0x12, 0x13] := by
  cases e with
  | noResponse => decide
  | malformed d => cases d <;> decide

/-- The word on the response port carries the code of the status answered. -/
theorem opField_mem_of_rsp {t : State} {st : Status} {d : Half} {w : Word} {codes : List Byte} (hw : t.rsp = some w)
    (ht : t.rsp = some (responseWord st d))
    (hst : st.code ∈ codes := by simp [Instr.statuses, Seq.statuses, Status.code]) : opField w ∈ codes := by
  obtain rfl : responseWord st d = w := Option.some.inj (ht.symm.trans hw)
  rwa [opField_responseWord]

/-- An instruction answers, if it answers, with a status of its own. -/
theorem opField_mem_statuses_of_exec {i : Instr} {s t : State} {w : Word} (hs : s.rsp = none) (h : exec i s = .next t)
    (hw : t.rsp = some w) : opField w ∈ i.statuses := by
  have silent : s.rsp ≠ some w := by simp [hs]
  rcases exec_inv h with ⟨rfl, rfl⟩ | ⟨r, imm, rfl, -, rfl⟩ | ⟨r, imm, d, rfl, -, rfl⟩ | ⟨a, imm, rfl | rfl, rfl⟩ |
    ⟨a, imm, rfl, rfl⟩ | ⟨rfl, rfl⟩ | ⟨a, rfl, rfl⟩ | ⟨a, imm, d, rfl, rfl⟩ | ⟨-, -, rfl⟩ | ⟨rfl, -, rfl⟩ |
    ⟨v, rfl, -, rfl⟩ | ⟨d, rfl, -, rfl⟩ | ⟨a, imm, -, rfl⟩ | ⟨bytes, -, rfl⟩
  · exact opField_mem_of_rsp hw rfl
  · exact opField_mem_of_rsp hw rfl
  · exact opField_mem_of_rsp hw rfl
  · exact opField_mem_of_rsp hw rfl
  · exact opField_mem_of_rsp hw rfl
  · exact opField_mem_of_rsp hw rfl
  · exact opField_mem_of_rsp hw rfl
  · exact opField_mem_of_rsp hw rfl
  · exact opField_mem_of_rsp hw rfl
  · exact absurd hw silent
  · exact opField_mem_of_rsp hw rfl
  · exact opField_mem_of_rsp hw rfl
  · exact opField_mem_of_rsp hw rfl (List.mem_cons_of_mem _ d.code_mem)
  · exact absurd hw silent
  · exact absurd hw silent

/-- `RxRead` answers in an XACT alone, and with `OK`. -/
theorem cmdop_and_opField_of_stepRxRead {s : State} {w : Word} (hs : s.rsp = none)
    (hw : (stepRxRead s).rsp = some w) : s.cmdop = .xact ∧ opField w ∈ Seq.rxwait.statuses := by
  rcases stepRxRead_cases s with ⟨hc, e⟩ | ⟨-, e⟩ <;> rw [e] at hw
  · exact ⟨hc, opField_mem_of_rsp hw rfl⟩
  · cases hs.symm.trans hw

/-- `Eval` answers the value or, with no attempt left, the attempt's error. -/
theorem opField_mem_statuses_of_stepEval {s : State} {w : Word} (hs : s.rsp = none)
    (hw : (stepEval s).rsp = some w) : opField w ∈ Seq.eval.statuses := by
  rcases stepEval_cases s with ⟨v, -, e⟩ | ⟨r, -, -, e⟩ | ⟨r, -, -, e⟩ <;> rw [e] at hw
  · exact opField_mem_of_rsp hw rfl
  · exact opField_mem_of_rsp hw rfl (List.mem_cons_of_mem _ r.code_mem)
  · cases hs.symm.trans hw

/-- The transitions of the sequencer that answer: `RxRead`, in an XACT alone, and `Eval`. -/
theorem answer_of_sequencerStep {s : State} {w : Word} (hs : s.rsp = none) (hw : (sequencerStep s).rsp = some w) :
    opField w ∈ s.seq.statuses ∧ (s.seq = .rxwait → s.cmdop = .xact) := by
  have silent : s.rsp ≠ some w := by simp [hs]
  rcases sequencerStep_cases s with ⟨-, e⟩ | ⟨-, e⟩ | ⟨-, e⟩ | ⟨-, -, e⟩ | ⟨hseq, -, e⟩ | ⟨hseq, e⟩ | ⟨-, -, e⟩ |
    ⟨-, -, e⟩ <;> rw [e] at hw
  · exact absurd hw silent
  · exact absurd hw silent
  · exact absurd hw silent
  · exact absurd hw silent
  · obtain ⟨hc, hmem⟩ := cmdop_and_opField_of_stepRxRead hs hw
    exact ⟨hseq ▸ hmem, fun _ => hc⟩
  · exact ⟨hseq ▸ opField_mem_statuses_of_stepEval hs hw, by simp [hseq]⟩
  · exact absurd hw silent
  · exact absurd hw silent

/-- A busy block answers in a transition of its sequencer only: the other agents' steps show nothing on the port. -/
theorem answer_of_step_busy {s t : State} {w : Word} (hs : s.seq ≠ .idle) (h : step s = .next t)
    (hw : t.rsp = some w) : opField w ∈ s.seq.statuses ∧ (s.seq = .rxwait → s.cmdop = .xact) := by
  rcases step_inv h with ⟨-, rfl⟩ | ⟨-, rfl⟩ | ⟨bytes, -, rfl⟩ | ⟨-, hidle, -⟩ | ⟨w', ws, r, -, hidle, -⟩ |
    ⟨w', ws, i, -, hidle, -⟩ | ⟨-, -, rfl⟩
  · cases hw
  · cases hw
  · cases hw
  · exact absurd hidle hs
  · exact absurd hidle hs
  · exact absurd hidle hs
  · exact answer_of_sequencerStep (s := s.startTurn) rfl hw

end Sys2Proof.Machine

namespace Sys2Proof.Proofs

open Sys2Proof.Machine

/-- Settles O45: an accepted instruction by its row, a busy block by the transition of its sequencer. -/
theorem statusesOfCommands : Obligations.StatusesOfCommands :=
  ⟨fun _ _ _ _ hs h hw => opField_mem_statuses_of_exec hs h hw,
    fun _ _ _ hs h hw => (answer_of_step_busy hs h hw).1,
    fun _ _ _ hs h hw => (answer_of_step_busy (by simp [hs]) h hw).2 hs⟩

/-- Settles O37: the `Tick` turn is the event `Tick` by whether the block waits, the LINE turn the arrival of its bytes. -/
theorem asyncEventsDoNoMore : Obligations.AsyncEventsDoNoMore := by
  refine ⟨fun s hturn => ⟨s.startTurn.tickEvent.timer, step_tick (turn_of_head? hturn), ?_⟩,
    fun s bytes hturn => step_line (turn_of_head? hturn)⟩
  by_cases hseq : s.seq = .settle ∨ s.seq = .rxwait ∨ s.seq = .rdelay
  · rw [if_pos hseq]
    exact toNat_tickEvent_timer (s := s.startTurn) ((waiting_iff s).2 hseq)
  · have hw : s.startTurn.waiting = false := Bool.eq_false_iff.2 (mt (waiting_iff s).1 hseq)
    rw [if_neg hseq, tickEvent_timer_of_not_waiting hw]
    rfl

/-- Settles O44: every instruction and every step has a next state. -/
theorem nothingStopsTheBlock : Obligations.NothingStopsTheBlock := ⟨exists_exec, exists_step⟩

end Sys2Proof.Proofs
end

section
/-! A busy block always comes to its answer (70_reset_and_hazards.md R250): its command has a bounded number of
transitions left, each of the block's turns takes one of them or waits, and a wait is bounded by `TIMER`. -/

namespace Sys2Proof.Machine

/-! ### How much of the running command is left -/

/-- The transitions of the sequencer from a state of `SEQ` up to the end of the command, when no further attempt is
begun (42_transceiver.md R141, 43_register_reader.md R161). -/
def Seq.stepsLeft : Seq → Nat
  | .idle => 0
  | .eval => 1
  | .rxwait => 2
  | .settle => 3
  | .write => 4
  | .txen => 5
  | .rdelay => 6

/-- The most transitions of the sequencer up to the end of the command: each attempt `RETRY_LEFT` allows takes six, from
its `Retry` through its `Eval`. -/
def State.stepsLeft (s : State) : Nat := 6 * s.retryLeft.toNat + s.seq.stepsLeft

/-- The most rounds of a `Tick` and a turn of the block up to the end of the command: those of the present wait, and
for each transition those of the longest wait it can begin. -/
def State.roundsLeft (s : State) : Nat := 65536 * s.stepsLeft + s.timer.toNat

/-- A transition is worth more rounds than any wait: `TIMER` has 16 bits. -/
theorem roundsLeft_lt_of_stepsLeft_lt {s t : State} (h : t.stepsLeft < s.stepsLeft) : t.roundsLeft < s.roundsLeft := by
  have hlt := t.timer.isLt
  unfold State.roundsLeft
  omega

/-! ### What a turn of a busy block does -/

/-- The command has ended and its answer is on the port. -/
def State.hasAnswered (s : State) : Prop := s.seq = .idle ∧ s.rsp.isSome = true

/-- The command still runs, and has come nearer to its end than it was in `s`. -/
def State.nearerThan (t s : State) : Prop := t.seq ≠ .idle ∧ t.stepsLeft < s.stepsLeft

/-- A transition that leaves `RETRY_LEFT` alone is nearer by the place of its `SEQ`. -/
theorem nearerThan_of_seq {s t : State} (hbusy : t.seq ≠ .idle) (hleft : t.retryLeft = s.retryLeft)
    (hseq : s.seq.stepsLeft = t.seq.stepsLeft + 1) : t.nearerThan s :=
  ⟨hbusy, by simp [State.stepsLeft, hleft, hseq]⟩

/-- Step `RxRead` answers an XACT and brings a READ to its `Eval`. -/
theorem stepRxRead_progress {s : State} (hs : s.seq = .rxwait) :
    (stepRxRead s).hasAnswered ∨ (stepRxRead s).nearerThan s := by
  rcases stepRxRead_cases s with ⟨-, e⟩ | ⟨-, e⟩ <;> rw [e]
  · exact .inl ⟨rfl, rfl⟩
  · exact .inr (nearerThan_of_seq nofun rfl (congrArg Seq.stepsLeft hs))

/-- Step `Eval` answers or spends one of the attempts left. -/
theorem stepEval_progress {s : State} (hs : s.seq = .eval) : (stepEval s).hasAnswered ∨ (stepEval s).nearerThan s := by
  rcases stepEval_cases s with ⟨v, -, e⟩ | ⟨r, -, -, e⟩ | ⟨r, -, hleft, e⟩ <;> rw [e]
  · exact .inl ⟨rfl, rfl⟩
  · exact .inl ⟨rfl, rfl⟩
  · refine .inr ⟨nofun, ?_⟩
    simp only [State.stepsLeft, hs, Seq.stepsLeft]
    bv_omega

/-- A turn of a busy block answers, brings the command nearer to its end, or waits for a tick. -/
theorem sequencerStep_progress {s : State} (hbusy : s.seq ≠ .idle) :
    (sequencerStep s).hasAnswered ∨ (sequencerStep s).nearerThan s ∨
      (s.waiting = true ∧ s.timer ≠ 0#16 ∧ sequencerStep s = s) := by
  rcases sequencerStep_cases s with ⟨hs, -⟩ | ⟨hs, e⟩ | ⟨hs, e⟩ | ⟨hs, -, e⟩ | ⟨hs, -, e⟩ | ⟨hs, e⟩ | ⟨hs, -, e⟩ | hwait
  · exact absurd hs hbusy
  · rw [e]; exact .inr (.inl (nearerThan_of_seq nofun rfl (congrArg Seq.stepsLeft hs)))
  · rw [e]; exact .inr (.inl (nearerThan_of_seq nofun rfl (congrArg Seq.stepsLeft hs)))
  · rw [e]; exact .inr (.inl (nearerThan_of_seq nofun rfl (congrArg Seq.stepsLeft hs)))
  · rw [e]; exact (stepRxRead_progress hs).imp_right .inl
  · rw [e]; exact (stepEval_progress hs).imp_right .inl
  · rw [e]; exact .inr (.inl (nearerThan_of_seq nofun rfl (congrArg Seq.stepsLeft hs)))
  · exact .inr (.inr hwait)

/-- No transition of the sequencer gives or takes a turn. -/
theorem schedule_sequencerStep (s : State) : (sequencerStep s).schedule = s.schedule := by
  rcases sequencerStep_cases s with ⟨-, e⟩ | ⟨-, e⟩ | ⟨-, e⟩ | ⟨-, -, e⟩ | ⟨-, -, e⟩ | ⟨-, e⟩ | ⟨-, -, e⟩ |
    ⟨-, -, e⟩ <;> rw [e]
  · rfl
  · rfl
  · rfl
  · rcases stepRxRead_cases s with ⟨-, e⟩ | ⟨-, e⟩ <;> rw [e] <;> rfl
  · obtain ⟨-, -, hschedule, -⟩ := readFrame_stepEval s
    exact hschedule
  · rfl

/-! ### Rounds of a `Tick` and a turn of the block -/

/-- A tick leaves as many transitions as there were: it moves `TIMER` only. -/
theorem stepsLeft_tickEvent (s : State) : s.tickEvent.stepsLeft = s.stepsLeft := rfl

/-- In a wait that a tick does not end, the tick took one from `TIMER`. -/
theorem roundsLeft_tickEvent_lt {s : State} (hwait : s.waiting = true) (ht : s.tickEvent.timer ≠ 0#16) :
    s.tickEvent.roundsLeft < s.roundsLeft := by
  have hticked := toNat_tickEvent_timer hwait
  have hmissing : s.tickEvent.timer.toNat ≠ 0 := fun h => ht (BitVec.eq_of_toNat_eq h)
  simp only [State.roundsLeft, stepsLeft_tickEvent]
  omega

/-- One round ends the command with its answer, or leaves it running with fewer rounds to go. -/
theorem run_round {s : State} {rest : List Turn} (hbusy : s.seq ≠ .idle) (hsch : s.schedule = .tick :: .block :: rest) :
    ∃ t, run 2 s = .next t ∧ t.schedule = rest ∧
      (t.hasAnswered ∨ (t.seq ≠ .idle ∧ t.roundsLeft < s.roundsLeft)) := by
  have htick : step s = .next s.startTurn.tickEvent := step_tick (by simp [State.turn, hsch])
  have hblock := step_busy (s := s.startTurn.tickEvent) (by simp [State.turn, hsch]) hbusy
  refine ⟨_, by rw [run_succ htick, run_succ hblock]; rfl, by simp [schedule_sequencerStep, hsch], ?_⟩
  rcases sequencerStep_progress (s := s.startTurn.tickEvent.startTurn) hbusy with h | ⟨hrun, hless⟩ | ⟨hwait, ht, e⟩
  · exact .inl h
  · exact .inr ⟨hrun, roundsLeft_lt_of_stepsLeft_lt hless⟩
  · rw [e]
    exact .inr ⟨hbusy, roundsLeft_tickEvent_lt (s := s.startTurn) hwait ht⟩

/-- More rounds than are left to go end the command with its answer, and perhaps before the last of them. -/
theorem run_rounds (n : Nat) : ∀ {s : State} {rest : List Turn}, s.seq ≠ .idle → s.roundsLeft < n →
    s.schedule = (List.replicate n [Turn.tick, Turn.block]).flatten ++ rest →
    ∃ k t, run k s = .next t ∧ t.hasAnswered ∧ k ≤ 2 * n := by
  induction n with
  | zero => exact fun _ hlt => absurd hlt (Nat.not_lt_zero _)
  | succ n ih =>
    intro s rest hbusy hlt hsch
    obtain ⟨t, hround, hrest, hend | ⟨hrun, hless⟩⟩ := run_round hbusy hsch
    · exact ⟨2, t, hround, hend, by omega⟩
    · obtain ⟨k, u, hk, hu, hle⟩ := ih hrun (by omega) hrest
      exact ⟨2 + k, u, (run_add hround k).trans hk, hu, by omega⟩

end Sys2Proof.Machine

namespace Sys2Proof.Proofs

open Sys2Proof.Machine

/-- Settles O34: every round answers or lessens the rounds left to go, which do not depend on the schedule. -/
theorem busyBlockFinishes : Obligations.BusyBlockFinishes := by
  intro s hbusy
  refine ⟨s.roundsLeft + 1, fun rest => ?_⟩
  obtain ⟨k, t, hrun, ⟨hidle, hrsp⟩, hk⟩ := run_rounds (s.roundsLeft + 1)
    (s := { s with schedule := (List.replicate (s.roundsLeft + 1) [Turn.tick, Turn.block]).flatten ++ rest }) hbusy
    (Nat.lt_succ_self _) rfl
  exact ⟨k, t, hrun, hidle, hrsp, hk⟩

end Sys2Proof.Proofs
end
